-- ==== Sys2Proof/Word.lean ====
section
/-! DEFINITION. The word types of TPCODEC: the widths the spec fixes in 00_scope.md R6 and 10_state.md R15, R29. -/

namespace Sys2Proof

/-- A byte: a frame byte, a template byte, an operation select, a probe or alarm index (R6, R7). -/
abbrev Byte := BitVec 8

/-- A 16-bit operand or `RESULT` (R6 `OPERAND_WIDTH`, R22). -/
abbrev Half := BitVec 16

/-- The request word, 72 bits (R6 `REQ_WIDTH`, R54). -/
abbrev ReqWord := BitVec 72

/-- The packed `frame` output, 160 bits (R29, R32). -/
abbrev FrameWord := BitVec 160

end Sys2Proof
end

