-- ==== Sys2Proof/Config.lean ====
section
/-! DEFINITION. The implementation parameters of 00_scope.md R6. `LATENCY` has no definition here: no rule depends on it (R123),
and the model represents it by the host moves that may fall between acceptance and completion (log 5). -/

namespace Sys2Proof

/-- The parameter `BCD_FIELD_LAYOUT` (R6, D10): which digit fields `BCD.CHK` and `BCD.DEC` see (R69). Its value is a strap of the
instance, held as `STATUS.LAYOUT` in State, so that a statement over all states holds for both (log 1). -/
inductive Layout where
  /-- The source's byte fields, the default. -/
  | byte8
  /-- One decimal digit per nibble, the owner's fix. -/
  | nibble4
deriving DecidableEq, Repr

/-- R6: `BCD_FIELD_LAYOUT` is `BYTE8` by default. -/
def Config.defaultLayout : Layout := .byte8

end Sys2Proof
end

