-- ==== Sys2Proof/Syntax.lean ====
section
/-! DEFINITION. The operations of TPCODEC as syntax: the ten rows of the opcode map (30_encoding.md R58), their operand formats
(R55), the instruction with its operands, the request as it is latched (10_state.md R16) and a line of assembly (R64). -/

namespace Sys2Proof

/-- The ten rows of the opcode map (R58). -/
inductive Op where
  | frmSetup | frmSetProf | frmRepProf | frmUnkA | frmTemp | frmUnkB
  | bcdEnc | bcdChk | bcdDec | csum
deriving DecidableEq, Repr

/-- The five operand formats of R55. -/
inductive Format where
  /-- no operand -/
  | n
  /-- one 16-bit value in `A0` -/
  | v
  /-- probe index `A0[7:0]`, alarm index `A1[7:0]` -/
  | pa
  /-- probe index, alarm index, high threshold `A2`, low threshold `A3` -/
  | pahl
  /-- four temperatures `A0`..`A3` -/
  | t4
deriving DecidableEq, Repr

/-- An operation with the operands it uses; ignored fields of the request (R57) are no part of it. An operand's type is its field's
width (R55, R56), so every `Instr` is well formed. -/
inductive Instr where
  /-- `FRM.SETUP` (R82) -/
  | frmSetup
  /-- `FRM.SETPROF p, a` (R83) -/
  | frmSetProf (p a : Byte)
  /-- `FRM.REPPROF p, a, h, l` (R84) -/
  | frmRepProf (p a : Byte) (h l : Half)
  /-- `FRM.UNKA` (R85) -/
  | frmUnkA
  /-- `FRM.TEMP t0, t1, t2, t3` (R86) -/
  | frmTemp (t0 t1 t2 t3 : Half)
  /-- `FRM.UNKB` (R87) -/
  | frmUnkB
  /-- `BCD.ENC v` (R70) -/
  | bcdEnc (v : Half)
  /-- `BCD.CHK v` (R71) -/
  | bcdChk (v : Half)
  /-- `BCD.DEC v` (R72) -/
  | bcdDec (v : Half)
  /-- `CSUM n` (R77) -/
  | csum (n : Half)
deriving DecidableEq, Repr

/-- A request as the latch holds it: `OP` and the four operands (R16). -/
structure Request where
  op : Byte
  a0 : Half
  a1 : Half
  a2 : Half
  a3 : Half
deriving DecidableEq, Repr

/-- What decoding yields (R60): exactly one of the ten operations, or the verdict "illegal" with the raw `OP` (R61). -/
inductive Decoded where
  | known (i : Instr)
  | illegal (op : Byte)
deriving DecidableEq, Repr

/-- A line of assembly (R64): a mnemonic and its operands as the numbers written, not yet checked against their fields. -/
structure AsmLine where
  op   : Op
  args : List Nat
deriving DecidableEq, Repr

end Sys2Proof
end

