-- ==== Sys2Proof/WellFormed.lean ====
section
/-! DEFINITION. Which lines of assembly are well formed (30_encoding.md R64). An `Instr` needs no check: its operands have the
widths of their fields by type, and no operand value makes a request illegal (R60). -/

namespace Sys2Proof

/-- R58: the format of each operation. -/
def Op.format : Op → Format
  | .frmSetup => .n
  | .frmSetProf => .pa
  | .frmRepProf => .pahl
  | .frmUnkA => .n
  | .frmTemp => .t4
  | .frmUnkB => .n
  | .bcdEnc => .v
  | .bcdChk => .v
  | .bcdDec => .v
  | .csum => .v

/-- R55, R64: the widths of a format's operands, in the order they are written. -/
def Format.widths : Format → List Nat
  | .n => []
  | .v => [16]
  | .pa => [8, 8]
  | .pahl => [8, 8, 16, 16]
  | .t4 => [16, 16, 16, 16]

/-- R64: each number fits its field. -/
def argsFit : List Nat → List Nat → Bool
  | [], [] => true
  | w :: ws, a :: as => decide (a < 2 ^ w) && argsFit ws as
  | _, _ => false

/-- R64: a line has exactly its format's operands, each in range; the assembler refuses any other line. -/
def AsmLine.wf (l : AsmLine) : Bool := argsFit l.op.format.widths l.args

end Sys2Proof
end

