-- ==== Sys2Proof/Decode.lean ====
section
/-! DEFINITION. The request word (30_encoding.md R54 to R63): splitting it, decoding it (total, R60), and the encoder, written from the
same tables. -/

namespace Sys2Proof

/-- R54, R68: the fields of a request word. -/
def Request.ofWord (w : ReqWord) : Request where
  op := w.extractLsb' 64 8
  a0 := w.extractLsb' 48 16
  a1 := w.extractLsb' 32 16
  a2 := w.extractLsb' 16 16
  a3 := w.extractLsb' 0 16

/-- R54: `OP` in bits 71:64, `A0` 63:48, `A1` 47:32, `A2` 31:16, `A3` 15:0. -/
def Request.word (r : Request) : ReqWord := r.op ++ r.a0 ++ r.a1 ++ r.a2 ++ r.a3

/-- R58: the `OP` value of each operation. -/
def Op.code : Op → Byte
  | .frmSetup => 0x01#8
  | .frmSetProf => 0x23#8
  | .frmRepProf => 0x24#8
  | .frmUnkA => 0x26#8
  | .frmTemp => 0x30#8
  | .frmUnkB => 0x41#8
  | .bcdEnc => 0x80#8
  | .bcdChk => 0x81#8
  | .bcdDec => 0x82#8
  | .csum => 0x83#8

/-- The rows of R58 in the table's order. -/
def Op.all : List Op :=
  [.frmSetup, .frmSetProf, .frmRepProf, .frmUnkA, .frmTemp, .frmUnkB, .bcdEnc, .bcdChk, .bcdDec, .csum]

/-- R60: the row an `OP` value selects, none where it is illegal (R61). -/
def Op.ofCode (b : Byte) : Option Op := Op.all.find? (fun o => o.code == b)

/-- R56: an 8-bit operand is the low byte of its 16-bit field. -/
def lowByte (v : Half) : Byte := v.extractLsb' 0 8

/-- R10: the more significant byte of a 16-bit value. -/
def highByte (v : Half) : Byte := v.extractLsb' 8 8

/-- R55: the operation of a row, with the operands its format takes from the request. -/
def Op.instr (o : Op) (r : Request) : Instr :=
  match o with
  | .frmSetup => .frmSetup
  | .frmSetProf => .frmSetProf (lowByte r.a0) (lowByte r.a1)
  | .frmRepProf => .frmRepProf (lowByte r.a0) (lowByte r.a1) r.a2 r.a3
  | .frmUnkA => .frmUnkA
  | .frmTemp => .frmTemp r.a0 r.a1 r.a2 r.a3
  | .frmUnkB => .frmUnkB
  | .bcdEnc => .bcdEnc r.a0
  | .bcdChk => .bcdChk r.a0
  | .bcdDec => .bcdDec r.a0
  | .csum => .csum r.a0

/-- R60: decoding a latched request looks at `OP` alone for the verdict. -/
def decodeRequest (r : Request) : Decoded :=
  match Op.ofCode r.op with
  | some o => .known (o.instr r)
  | none => .illegal r.op

/-- R60: decoding a request word; total. -/
def decode (w : ReqWord) : Decoded := decodeRequest (Request.ofWord w)

/-- The row of an instruction. -/
def Instr.op : Instr → Op
  | .frmSetup => .frmSetup
  | .frmSetProf _ _ => .frmSetProf
  | .frmRepProf _ _ _ _ => .frmRepProf
  | .frmUnkA => .frmUnkA
  | .frmTemp _ _ _ _ => .frmTemp
  | .frmUnkB => .frmUnkB
  | .bcdEnc _ => .bcdEnc
  | .bcdChk _ => .bcdChk
  | .bcdDec _ => .bcdDec
  | .csum _ => .csum

/-- R55, R64: the request of an instruction, ignored fields zero. -/
def Instr.request (i : Instr) : Request :=
  match i with
  | .frmSetup => ⟨i.op.code, 0, 0, 0, 0⟩
  | .frmSetProf p a => ⟨i.op.code, p.setWidth 16, a.setWidth 16, 0, 0⟩
  | .frmRepProf p a h l => ⟨i.op.code, p.setWidth 16, a.setWidth 16, h, l⟩
  | .frmUnkA => ⟨i.op.code, 0, 0, 0, 0⟩
  | .frmTemp t0 t1 t2 t3 => ⟨i.op.code, t0, t1, t2, t3⟩
  | .frmUnkB => ⟨i.op.code, 0, 0, 0, 0⟩
  | .bcdEnc v => ⟨i.op.code, v, 0, 0, 0⟩
  | .bcdChk v => ⟨i.op.code, v, 0, 0, 0⟩
  | .bcdDec v => ⟨i.op.code, v, 0, 0, 0⟩
  | .csum n => ⟨i.op.code, n, 0, 0, 0⟩

/-- R54, R64: the request word of an instruction. -/
def encode (i : Instr) : ReqWord := i.request.word

/-- R64: the instruction a well-formed line of assembly stands for, none for a line the assembler refuses (R64, D24). -/
def AsmLine.instr? (l : AsmLine) : Option Instr :=
  if l.wf then
    match l.op, l.args with
    | .frmSetup, [] => some .frmSetup
    | .frmSetProf, [p, a] => some (.frmSetProf (BitVec.ofNat 8 p) (BitVec.ofNat 8 a))
    | .frmRepProf, [p, a, h, k] =>
        some (.frmRepProf (BitVec.ofNat 8 p) (BitVec.ofNat 8 a) (BitVec.ofNat 16 h) (BitVec.ofNat 16 k))
    | .frmUnkA, [] => some .frmUnkA
    | .frmTemp, [t0, t1, t2, t3] =>
        some (.frmTemp (BitVec.ofNat 16 t0) (BitVec.ofNat 16 t1) (BitVec.ofNat 16 t2) (BitVec.ofNat 16 t3))
    | .frmUnkB, [] => some .frmUnkB
    | .bcdEnc, [v] => some (.bcdEnc (BitVec.ofNat 16 v))
    | .bcdChk, [v] => some (.bcdChk (BitVec.ofNat 16 v))
    | .bcdDec, [v] => some (.bcdDec (BitVec.ofNat 16 v))
    | .csum, [n] => some (.csum (BitVec.ofNat 16 n))
    | _, _ => none
  else none

/-- R64: the request word a line assembles to, none where the assembler refuses it. -/
def AsmLine.assemble (l : AsmLine) : Option ReqWord := l.instr?.map encode

/-- The instruction the decoder reads from a request whose bits are `w`, numbered as spec/opcode_table.json numbers them: the
table's row is the 72-bit word of R54, bit 0 its least significant bit. Bits of the word above `nbits` are 0; a value that needs
more than 72 bits is no request (R63), log 7. -/
def decodeTableWord (nbits w : Nat) : Option Instr :=
  if w % 2 ^ nbits < 2 ^ 72 then
    match decode (BitVec.ofNat 72 (w % 2 ^ nbits)) with
    | .known i => some i
    | .illegal _ => none
  else none

end Sys2Proof
end

