-- ==== Sys2Proof/Machine/State.lean ====
section
/-! DEFINITION. The state of TPCODEC as plain data (10_state.md R15, R28, R29), the reasons a step can stop, and the state after
reset (70_reset_and_hazards.md R111). -/

namespace Sys2Proof.Machine

/-- The outcome codes of `STATUS.ERR` (60_exceptions.md R92). Codes 4..7 are never written, so the type leaves them out (I16). -/
inductive ErrCode where
  | ok | illegalOp | badCount | frameInvalid
deriving DecidableEq, Repr

/-- The register `STATUS`, one field for each field of R17; the 8-bit word the host reads is its view `statusWord`. -/
structure Status where
  /-- bit 0, R18 -/
  busy   : Bool
  /-- bits 3:1, R92 -/
  err    : ErrCode
  /-- bit 4: `RESULT` holds a value, R19 -/
  rv     : Bool
  /-- bit 5: `FLAG` holds a value, R19 -/
  fv     : Bool
  /-- bit 6: `FRAME` holds a complete frame, R19 -/
  frv    : Bool
  /-- bit 7, hard-wired to the parameter `BCD_FIELD_LAYOUT`, R24; the parameter's one home in the model (log 1) -/
  layout : Layout
deriving DecidableEq, Repr

/-- The bytes of `FRAME` by index, in one canonical form (`Memory.wf`): indices rising and below 20, and no entry equal to what an
unlisted index reads as. -/
abbrev Memory := List Host.Cell

/-- The template ROM `TPL` (R20). Nothing can write it, so its type has one value; its twenty bytes are `tplByte` (log 4). -/
inductive TplRom where
  | mask
deriving DecidableEq, Repr

/-- The outputs a host can read (R29, R33). -/
inductive Output where
  | status | result | flag | frame
deriving DecidableEq, Repr

/-- What the host can do to the block between two of its turns (R28, R30, R33). No move writes a register (R33), changes the layout
(R121) or comes before the first reset (R114). -/
inductive HostMove where
  /-- drive `req` with a word and `req_valid = 1` (R28, R33 issue) -/
  | offer (w : ReqWord)
  /-- drive `req_valid = 0` (R30) -/
  | withdraw
  /-- raise `rst` (R111, R112) -/
  | assertRst
  /-- let `rst` fall (R111) -/
  | releaseRst
  /-- read an output (R29, R33 read) -/
  | read (o : Output)
  /-- do nothing and leave the turn to the block (R33 wait) -/
  | wait
deriving DecidableEq, Repr

/-- The whole state. The first eight fields and `done` are the spec's (R15, R28, R29); `moves` and `errors` are the model's own. -/
structure State where
  /-- the request latch: the request in flight, none when none is held (R16, R34) -/
  latch  : Option Request
  /-- `STATUS` (R17) -/
  status : Status
  /-- `RESULT` (R22) -/
  result : Half
  /-- `FLAG` (R23) -/
  flag   : Bool
  /-- `FRAME[0..19]` (R21) -/
  frame  : Memory
  /-- `TPL[0..19]` (R20) -/
  tpl    : TplRom
  /-- the input `rst` (R28) -/
  rst    : Bool
  /-- the inputs `req_valid` and `req`: the request on offer, none when `req_valid = 0` (R28, R30) -/
  offer  : Option ReqWord
  /-- the output `done`: true exactly in the state a completion leaves (R29, R31), log 8 -/
  done   : Bool
  /-- the model's own: the host's coming moves, first to come first; when none is left the block has every turn (log 6) -/
  moves  : List HostMove
  /-- the model's own: every error completion so far, oldest first, cleared by no step (R110, D25), log 9 -/
  errors : List ErrCode
deriving DecidableEq, Repr

/-- Why the model stops with a fault: the spec gives a host read no value and says that the read faults in the model (R26, R110,
92_eei_decisions.md D22, 93_implementation_defined.md I11). Every one is safe: hardware drives some value there and goes on. Raised by
`hostRead`, by no instruction. -/
inductive Fault where
  /-- a host read of `RESULT` while `RV = 0`: "the read faults in the model" (R26) -/
  | resultNoValue
  /-- a host read of `FLAG` while `FV = 0`: "the read faults in the model" (R26) -/
  | flagNoValue
  /-- a host read of `FRAME` while `FRV = 0`: "the read faults in the model" (R26) -/
  | frameNoValue
deriving DecidableEq, Repr

/-- Why the model has no step. -/
inductive Refusal where
  /-- an instruction without a meaning; no arm of this model answers it -/
  | notModelled (mnemonic : String)
  /-- the host replaces an offered request by another word before it is accepted or withdrawn: a host that breaks its duty has no
  move (R33, I17). Raised by `hostOffer`; safe, log 14. -/
  | hostChangesOffer
deriving DecidableEq, Repr

/-- R111 for `STATUS`: everything 0 but the layout, which is the parameter. -/
def Status.atReset (l : Layout) : Status :=
  { busy := false, err := .ok, rv := false, fv := false, frv := false, layout := l }

/-- The state right after reset of an instance built with layout `l` (R111). `RESULT`, `FLAG` and `FRAME` have no value by the spec;
the contents named here are DESIGN CHOICE, unsafe (log 2), and no read shows them (R26). -/
def State.resetWith (l : Layout) : State :=
  { latch := none, status := Status.atReset l, result := 0#16, flag := false, frame := [], tpl := .mask
    rst := false, offer := none, done := false, moves := [], errors := [] }

/-- The state right after reset, with the default layout (R6, R111). -/
def State.reset : State := State.resetWith Config.defaultLayout

end Sys2Proof.Machine
end

