-- ==== Sys2Proof/Machine/Operands.lean ====
section
/-! DEFINITION. Operand forms: how the bits of an operand are seen by the codec and placed in a frame (00_scope.md R10,
30_encoding.md R56, 40_bcd_codec.md R69). The 8-bit and 16-bit operands themselves are taken from the request by `Op.instr`. -/

namespace Sys2Proof.Machine

/-- R10, R37: a 16-bit value placed big-endian, the more significant byte first. -/
def bigEndian (v : Half) : List Byte := [highByte v, lowByte v]

/-- R69: the four digit fields `[f0, f1, f2, f3]` of a value: byte fields of the value widened to 32 bits, or nibbles. -/
def digitFields (l : Layout) (v : Half) : List Nat :=
  match l with
  | .byte8 =>
      let w : BitVec 32 := v.setWidth 32
      [(w.extractLsb' 0 8).toNat, (w.extractLsb' 8 8).toNat, (w.extractLsb' 16 8).toNat, (w.extractLsb' 24 8).toNat]
  | .nibble4 =>
      [(v.extractLsb' 0 4).toNat, (v.extractLsb' 4 4).toNat, (v.extractLsb' 8 4).toNat, (v.extractLsb' 12 4).toNat]

/-- R72: the value of digit fields with place values 1, 10, 100, 1000 (the first field is the units). -/
def placeValue : List Nat → Nat
  | [] => 0
  | f :: fs => f + 10 * placeValue fs

end Sys2Proof.Machine
end

