-- ==== Sys2Proof/Machine/Flags.lean ====
section
/-! DEFINITION. Condition state: the verdict that `FLAG` holds (40_bcd_codec.md R71), the outcome codes and the `STATUS` word
(10_state.md R17, 60_exceptions.md R92), and the order of `CSUM`'s error checks (R97). -/

namespace Sys2Proof.Machine

/-- R71: the check passes exactly when each of the four digit fields is at most 9. -/
def isBcd (l : Layout) (v : Half) : Bool := (digitFields l v).all (fun f => decide (f ≤ 9))

/-- R92: the code of an outcome in `STATUS.ERR`. -/
def ErrCode.code : ErrCode → BitVec 3
  | .ok => 0
  | .illegalOp => 1
  | .badCount => 2
  | .frameInvalid => 3

/-- R24: `STATUS.LAYOUT` reads 0 for `BYTE8` and 1 for `NIBBLE4`. -/
def layoutBit : Layout → Bool
  | .byte8 => false
  | .nibble4 => true

/-- R17: the 8-bit register as the host reads it, bit 7 first: `LAYOUT`, `FRV`, `FV`, `RV`, `ERR`, `BUSY`. -/
def statusWord (t : Status) : Byte :=
  BitVec.ofBool (layoutBit t.layout) ++ BitVec.ofBool t.frv ++ BitVec.ofBool t.fv ++ BitVec.ofBool t.rv ++ t.err.code
    ++ BitVec.ofBool t.busy

/-- R77, R97: the error `CSUM` raises for the count `n`, if any: the count is checked before the frame. -/
def csumError (n : Half) (t : Status) : Option ErrCode :=
  if n.toNat > 20 then some .badCount
  else if t.frv = false then some .frameInvalid
  else none

end Sys2Proof.Machine
end

