-- ==== Sys2Proof/Machine/Ops.lean ====
section
/-! DEFINITION. The named operations: the byte arrays and their primitives (20_memory.md R35, R53), the commit of each write set
(10_state.md R25, 20_memory.md R47), and the ending of an operation with an error (60_exceptions.md R96). TPCODEC has no trap entry
and no return from one (R99, R100): raising an error is the whole of its exception mechanism. -/

namespace Sys2Proof.Machine

/-- What an index of `FRAME` with no entry reads as: 0x00. A representation only: a frame no build has written is never read
(R26, R95). DESIGN CHOICE, log 3. -/
def unlistedByte : Byte := 0#8

/-- The byte at an index. -/
def Memory.read (m : Memory) (a : Nat) : Byte :=
  match m with
  | [] => unlistedByte
  | (b, v) :: rest => if a = b then v else Memory.read rest a

/-- The entry list with `a` holding `v`, in rising order. -/
def Memory.insert (m : Memory) (a : Nat) (v : Byte) : Memory :=
  match m with
  | [] => [(a, v)]
  | (b, w) :: rest =>
      if a < b then (a, v) :: (b, w) :: rest
      else if a = b then (a, v) :: rest
      else (b, w) :: Memory.insert rest a v

/-- Writing a byte keeps the canonical form: a byte equal to the unlisted one is listed nowhere. -/
def Memory.write (m : Memory) (a : Nat) (v : Byte) : Memory :=
  if v = unlistedByte then m.filter (fun c => c.1 != a) else Memory.insert m a v

/-- Indices rise and stay below the array's size. -/
def Memory.rising : Nat → Memory → Bool
  | _, [] => true
  | lo, (a, v) :: rest => decide (lo ≤ a) && decide (a < 20) && decide (v ≠ unlistedByte) && Memory.rising (a + 1) rest

/-- The canonical form of the bytes of `FRAME`. -/
def Memory.wf (m : Memory) : Bool := Memory.rising 0 m

/-- R53 `MemRead(i, 1)`: byte `i` of `FRAME`; the index is below 20 by type (R36). -/
def memRead (i : Fin 20) (m : Memory) : Byte := Memory.read m i.val

/-- R53 `MemWrite(i, 1, v)`: set byte `i` of the shadow. -/
def memWrite (i : Fin 20) (v : Byte) (m : Memory) : Memory := Memory.write m i.val v

/-- The writes of a loop, first to last. -/
def memWrites : List (Fin 20 × Byte) → Memory → Memory
  | [], m => m
  | (i, v) :: rest, m => memWrites rest (memWrite i v m)

/-- R20: the twenty bytes of the template, index 0 first. -/
def template : List Byte :=
  [0x00#8, 0x11#8, 0x22#8, 0x33#8, 0x44#8, 0x55#8, 0x66#8, 0x77#8, 0x88#8, 0x99#8,
   0xAA#8, 0xBB#8, 0xCC#8, 0xDD#8, 0xEE#8, 0xFF#8, 0x17#8, 0x18#8, 0x19#8, 0x20#8]

/-- R20, R53 `TPL[i]`: byte `i` of the template ROM. -/
def tplByte (_ : TplRom) (i : Fin 20) : Byte := template.getD i.val 0#8

/-- The twenty bytes of `FRAME`, index 0 first. -/
def frameBytes (m : Memory) : List Byte := (List.finRange 20).map (fun i => memRead i m)

/-- R76: `Csum8(b, k)`, the sum of the first `k` bytes modulo 256. -/
def csum8 (b : List Byte) (k : Nat) : Byte :=
  BitVec.ofNat 8 (((b.take k).map BitVec.toNat).sum % 256)

/-- R80: the shadow frame of `Build(c, k)`: the template over all of it, then the content, then the checksum at index `k`. -/
def buildFrame (rom : TplRom) (c : List Byte) (k : Fin 20) (m : Memory) : Memory :=
  let m1 := memWrites ((List.finRange 20).map (fun i => (i, tplByte rom i))) m
  let m2 := memWrites ((List.finRange 20).zip (c.take k.val)) m1
  memWrite k (csum8 c k.val) m2

/-- R25: `RESULT` written, `RV` set. -/
def State.withResult (v : Half) (s : State) : State :=
  { s with result := v, status := { s.status with rv := true } }

/-- R25: `FLAG` written, `FV` set. -/
def State.withFlag (b : Bool) (s : State) : State :=
  { s with flag := b, status := { s.status with fv := true } }

/-- R25: `FRAME` written, `FRV` set. -/
def State.withFrame (m : Memory) (s : State) : State :=
  { s with frame := m, status := { s.status with frv := true } }

/-- R110: the model's sticky record of an error completion. -/
def State.recordError (e : ErrCode) (s : State) : State := { s with errors := s.errors ++ [e] }

/-- R31, R47: the end of an operation with outcome `e`: `ERR` written, `BUSY` cleared, the latch emptied, `done` reported. -/
def State.retire (e : ErrCode) (s : State) : State :=
  { s with latch := none, status := { s.status with busy := false, err := e }, done := true }

/-- R25, R47: commit of `BCD.ENC`, `BCD.DEC` and `CSUM`. -/
def commitResult (v : Half) (s : State) : Host.Outcome State Fault Refusal := .next ((s.withResult v).retire .ok)

/-- R25, R47: commit of `BCD.CHK`. -/
def commitFlag (b : Bool) (s : State) : Host.Outcome State Fault Refusal := .next ((s.withFlag b).retire .ok)

/-- R25, R47, R80: build a frame from the content `c` with the checksum at index `k`, and commit it. -/
def build (c : List Byte) (k : Fin 20) (s : State) : Host.Outcome State Fault Refusal :=
  .next ((s.withFrame (buildFrame s.tpl c k s.frame)).retire .ok)

/-- R96: an operation that raises an error commits `ERR` alone, with `BUSY` cleared; the error is a normal step (R110). -/
def raise (e : ErrCode) (s : State) : Host.Outcome State Fault Refusal := .next ((s.recordError e).retire e)

end Sys2Proof.Machine
end

