-- ==== Sys2Proof/Machine/Bcd.lean ====
section
/-! DEFINITION. The BCD codec (40_bcd_codec.md): `BCD.ENC`, `BCD.CHK`, `BCD.DEC`. -/

namespace Sys2Proof.Machine

/-- R70: the four low decimal digits of a value, thousands in bits 15:12. -/
def bcdEnc (v : Half) : Half :=
  let d := v.toNat
  let u := d % 10
  let t := (d / 10) % 10
  let h := (d / 100) % 10
  let k := (d / 1000) % 10
  BitVec.ofNat 4 k ++ BitVec.ofNat 4 h ++ BitVec.ofNat 4 t ++ BitVec.ofNat 4 u

/-- R72: the value of the digit fields, or the sentinel 0xFFFF for a value that fails the check. -/
def bcdDec (l : Layout) (v : Half) : Half :=
  if isBcd l v then BitVec.ofNat 16 (placeValue (digitFields l v)) else 0xFFFF#16

/-- `BCD.ENC` (R70). -/
def execBcdEnc (v : Half) (s : State) : Host.Outcome State Fault Refusal := commitResult (bcdEnc v) s

/-- `BCD.CHK` (R71). -/
def execBcdChk (v : Half) (s : State) : Host.Outcome State Fault Refusal := commitFlag (isBcd s.status.layout v) s

/-- `BCD.DEC` (R72). -/
def execBcdDec (v : Half) (s : State) : Host.Outcome State Fault Refusal := commitResult (bcdDec s.status.layout v) s

end Sys2Proof.Machine
end

