-- ==== Sys2Proof/Machine/Checksum.lean ====
section
/-! DEFINITION. The checksum engine as an operation (41_checksum.md R77): `CSUM`. -/

namespace Sys2Proof.Machine

/-- `CSUM` (R77): the checksum of the first `n` bytes of `FRAME`, or the error that applies first (R97). -/
def execCsum (n : Half) (s : State) : Host.Outcome State Fault Refusal :=
  match csumError n s.status with
  | some e => raise e s
  | none => commitResult ((csum8 (frameBytes s.frame) n.toNat).setWidth 16) s

end Sys2Proof.Machine
end

