-- ==== Sys2Proof/Machine/Frame.lean ====
section
/-! DEFINITION. The response frame builder (42_frame_builder.md): the six `FRM.*` operations. -/

namespace Sys2Proof.Machine

/-- `FRM.SETUP` (R82). -/
def execFrmSetup (s : State) : Host.Outcome State Fault Refusal := build [0x01#8, 0x01#8, 0x0A#8] 3 s

/-- `FRM.SETPROF` (R83). -/
def execFrmSetProf (p a : Byte) (s : State) : Host.Outcome State Fault Refusal := build [0x23#8, 0x02#8, p, a] 4 s

/-- `FRM.REPPROF` (R84). -/
def execFrmRepProf (p a : Byte) (h l : Half) (s : State) : Host.Outcome State Fault Refusal :=
  build ([0x24#8, 0x06#8, p, a] ++ bigEndian h ++ bigEndian l) 8 s

/-- `FRM.UNKA` (R85). -/
def execFrmUnkA (s : State) : Host.Outcome State Fault Refusal :=
  build [0x26#8, 0x05#8, 0x0C#8, 0x0C#8, 0x5A#8, 0x03#8, 0x0F#8] 7 s

/-- `FRM.TEMP` (R86): the four temperatures are BCD-encoded inside the operation; `RESULT` is not written. -/
def execFrmTemp (t0 t1 t2 t3 : Half) (s : State) : Host.Outcome State Fault Refusal :=
  build ([0x30#8, 0x0F#8, 0x5A#8, 0x0C#8, 0x00#8]
    ++ bigEndian (bcdEnc t0) ++ bigEndian (bcdEnc t1) ++ bigEndian (bcdEnc t2) ++ bigEndian (bcdEnc t3)
    ++ [0xFF#8, 0xFF#8, 0xFF#8, 0xFF#8]) 17 s

/-- `FRM.UNKB` (R87). -/
def execFrmUnkB (s : State) : Host.Outcome State Fault Refusal := build [0x41#8, 0x02#8, 0x31#8, 0x11#8] 4 s

end Sys2Proof.Machine
end

