-- ==== Sys2Proof/Machine/Dispatch.lean ====
section
/-! DEFINITION. One arm per operation of the opcode map (30_encoding.md R58, R68). -/

namespace Sys2Proof.Machine

/-- The body of an operation and its commit (R68), on the state in which the request is in flight. -/
def exec (i : Instr) (s : State) : Host.Outcome State Fault Refusal :=
  match i with
  | .frmSetup => Sys2Proof.Machine.execFrmSetup s
  | .frmSetProf p a => Sys2Proof.Machine.execFrmSetProf p a s
  | .frmRepProf p a h l => Sys2Proof.Machine.execFrmRepProf p a h l s
  | .frmUnkA => Sys2Proof.Machine.execFrmUnkA s
  | .frmTemp t0 t1 t2 t3 => Sys2Proof.Machine.execFrmTemp t0 t1 t2 t3 s
  | .frmUnkB => Sys2Proof.Machine.execFrmUnkB s
  | .bcdEnc v => Sys2Proof.Machine.execBcdEnc v s
  | .bcdChk v => Sys2Proof.Machine.execBcdChk v s
  | .bcdDec v => Sys2Proof.Machine.execBcdDec v s
  | .csum n => Sys2Proof.Machine.execCsum n s

end Sys2Proof.Machine
end

