-- ==== Sys2Proof/Machine/Outputs.lean ====
section
/-! DEFINITION. What the host sees (10_state.md R28, R29, R32, R26): the outputs as views of State, and a host read. -/

namespace Sys2Proof.Machine

/-- R28: `req_ready` equals `NOT STATUS.BUSY AND NOT rst`. -/
def reqReady (s : State) : Bool := !s.status.busy && !s.rst

/-- R32: bytes packed with the first in the most significant place. -/
def packBytes : List Byte → Nat
  | [] => 0
  | b :: rest => b.toNat * 256 ^ rest.length + packBytes rest

/-- R32: the 160-bit `frame` output, `FRAME[i]` in bits `159 - 8i : 152 - 8i`. -/
def packFrame (m : Memory) : FrameWord := BitVec.ofNat 160 (packBytes (frameBytes m))

/-- R29: the `status` output. -/
def statusOut (s : State) : Byte := statusWord s.status

/-- R29, R26: the `result` output; no value while `RV = 0`. -/
def resultOut (s : State) : Option Half := if s.status.rv then some s.result else none

/-- R29, R26: the `flag` output; no value while `FV = 0`. -/
def flagOut (s : State) : Option Bool := if s.status.fv then some s.flag else none

/-- R29, R26: the `frame` output; no value while `FRV = 0`. -/
def frameOut (s : State) : Option FrameWord := if s.status.frv then some (packFrame s.frame) else none

/-- R43: a host read changes nothing. R26, R110 (D22, I11): where the output holds no value, the read faults in the model. The value
read is the view above; the host's own copy of it is the host's state (R33), log 11. -/
def hostRead (o : Output) (s : State) : Host.Outcome State Fault Refusal :=
  match o with
  | .status => .next s
  | .result => if s.status.rv then .next s else .fault .resultNoValue
  | .flag => if s.status.fv then .next s else .fault .flagNoValue
  | .frame => if s.status.frv then .next s else .fault .frameNoValue

end Sys2Proof.Machine
end

