-- ==== Sys2Proof/Machine/Port.lean ====
section
/-! DEFINITION. The request port and `rst`: acceptance of a request (10_state.md R30, 30_encoding.md R68), reset
(70_reset_and_hazards.md R111, R112) and the host's moves (R33). -/

namespace Sys2Proof.Machine

/-- R111, R112: the block's registers take their reset values; a request in flight is abandoned and `done` does not report it. The
inputs `rst` and `req` are the host's, `TPL` and the layout are untouched (R113), and the model's record of errors stays (R110). -/
def resetBlock (s : State) : State :=
  { s with latch := none, status := Status.atReset s.status.layout, result := 0#16, flag := false, frame := [], done := false }

/-- R30, R68: a request is accepted: latched, and `BUSY` set; nothing is left on offer until the host offers again (log 5). -/
def accept (w : ReqWord) (s : State) : State :=
  { s with latch := some (Request.ofWord w), status := { s.status with busy := true }, offer := none }

/-- R30, R33: the host drives `req`. A request offered while `req_ready = 0` stays offered. Replacing a word still on offer is no move
(I17), log 14. -/
def hostOffer (w : ReqWord) (s : State) : Host.Outcome State Fault Refusal :=
  match s.offer with
  | none => .next { s with offer := some w }
  | some w' => if w' = w then .next s else .refused .hostChangesOffer

/-- A move of the host other than waiting, and waiting as no effect (R33). `rst` acts when it rises (R112) and when it falls (R111);
letting a low `rst` fall is nothing. -/
def hostMove (m : HostMove) (s : State) : Host.Outcome State Fault Refusal :=
  match m with
  | .offer w => hostOffer w s
  | .withdraw => .next { s with offer := none }
  | .assertRst => .next (resetBlock { s with rst := true })
  | .releaseRst => if s.rst then .next (resetBlock { s with rst := false }) else .next s
  | .read o => hostRead o s
  | .wait => .next s

end Sys2Proof.Machine
end

