-- ==== Sys2Proof/Machine/Cycle.lean ====
section
/-! DEFINITION. The block's turn: the operation cycle of 30_encoding.md R68 at the transaction level. -/

namespace Sys2Proof.Machine

/-- R60, R61, R68: the request in flight runs to its completion: its operation, or `ILLEGAL_OP` where its `OP` is not in the map. -/
def runRequest (r : Request) (s : State) : Host.Outcome State Fault Refusal :=
  match decodeRequest r with
  | .known i => exec i s
  | .illegal _ => raise .illegalOp s

/-- One turn of the block: under `rst` it holds the reset state (R111); with a request in flight it completes it (R31); with none it holds
its state (R108). -/
def blockTurn (s : State) : Host.Outcome State Fault Refusal :=
  if s.rst then .next (resetBlock s)
  else
    match s.latch with
    | some r => runRequest r s
    | none => .next s

/-- The start of every step: `done` of an earlier completion has been reported (R31), log 8. -/
def reported (s : State) : State := { s with done := false }

/-- The start of a turn: the first host move is taken off the list. -/
def nextTurn (s : State) : State := { reported s with moves := s.moves.tail }

/-- Whether the next turn is the block's: the host has no move left, or waits. -/
def blockToAct (s : State) : Bool :=
  match s.moves with
  | [] => true
  | .wait :: _ => true
  | _ :: _ => false

/-- The next turn, the host's or the block's. -/
def takeTurn (s : State) : Host.Outcome State Fault Refusal :=
  match s.moves with
  | [] => blockTurn (nextTurn s)
  | .wait :: _ => blockTurn (nextTurn s)
  | m :: _ => hostMove m (nextTurn s)

/-- R30: a request is accepted exactly when `req_valid = 1` and `req_ready = 1`, so acceptance comes before any other turn (log 5). -/
def cycle (s : State) : Host.Outcome State Fault Refusal :=
  match s.offer with
  | some w => if reqReady s then .next (accept w (reported s)) else takeTurn s
  | none => takeTurn s

/-- The request of a word whose bits above `nbits` are zero, in flight, out of reset, with the next turn the
block's: the host has offered it and the block has accepted it (log 7). -/
def placeRequest (s : State) (nbits w : Nat) : State :=
  { s with latch := some (Request.ofWord (BitVec.ofNat 72 (w % 2 ^ nbits)))
           status := { s.status with busy := true }, rst := false, moves := .wait :: s.moves }

end Sys2Proof.Machine
end

