-- ==== Sys2Proof/Machine/Step.lean ====
section
/-! DEFINITION. One step of the machine. -/

namespace Sys2Proof.Machine

/-- One step: the acceptance of an offered request, the host's next move, or the block's turn. -/
def step (s : State) : Host.Outcome State Fault Refusal := cycle s

/-- `s` with the request whose bits are `w` placed so that the very next step runs it: TPCODEC fetches nothing (R14), so the request
is put where acceptance puts it (log 7). -/
def State.withFetchWord (s : State) (nbits w : Nat) : State := placeRequest s nbits w

end Sys2Proof.Machine
end

