-- ==== Sys2Proof/Machine/Assembler.lean ====
section
/-! DEFINITION. The assembler's text syntax (30_encoding.md R64 to R66): one operation per line, the mnemonic, then its operands in the
order `A0, A1, A2, A3`, comma-separated, decimal or `0x` hexadecimal; a comment starts at `;` and never assembles to a request. What
R64 does not say of spacing and letter case is DESIGN CHOICE, log 15. -/

namespace Sys2Proof.Machine

/-- R58: the mnemonic of each operation. -/
def opMnemonic : Op → String
  | .frmSetup => "FRM.SETUP"
  | .frmSetProf => "FRM.SETPROF"
  | .frmRepProf => "FRM.REPPROF"
  | .frmUnkA => "FRM.UNKA"
  | .frmTemp => "FRM.TEMP"
  | .frmUnkB => "FRM.UNKB"
  | .bcdEnc => "BCD.ENC"
  | .bcdChk => "BCD.CHK"
  | .bcdDec => "BCD.DEC"
  | .csum => "CSUM"

/-- The operation a mnemonic names; there are no pseudo-instructions (R66). -/
def opOfMnemonic (cs : List Char) : Option Op := Op.all.find? (fun o => (opMnemonic o).toList == cs)

/-- Blanks between the parts of a line. -/
def isBlank (c : Char) : Bool := c == ' ' || c == '\t'

/-- The text without the blanks around it. -/
def trimBlanks (cs : List Char) : List Char := ((cs.dropWhile isBlank).reverse.dropWhile isBlank).reverse

/-- The parts of a text between separators. -/
def splitAtEach (sep : Char) : List Char → List (List Char)
  | [] => [[]]
  | c :: cs =>
      if c = sep then [] :: splitAtEach sep cs
      else
        match splitAtEach sep cs with
        | [] => [[c]]
        | p :: ps => (c :: p) :: ps

/-- A decimal digit's value. -/
def decimalDigit (c : Char) : Option Nat := if '0' ≤ c ∧ c ≤ '9' then some (c.toNat - 48) else none

/-- A hexadecimal digit's value, capital or small. -/
def hexDigit (c : Char) : Option Nat :=
  if '0' ≤ c ∧ c ≤ '9' then some (c.toNat - 48)
  else if 'A' ≤ c ∧ c ≤ 'F' then some (c.toNat - 55)
  else if 'a' ≤ c ∧ c ≤ 'f' then some (c.toNat - 87)
  else none

/-- Digits after a number read so far. -/
def digitsFrom (base : Nat) (digit : Char → Option Nat) : Nat → List Char → Option Nat
  | acc, [] => some acc
  | acc, c :: cs =>
      match digit c with
      | some d => digitsFrom base digit (acc * base + d) cs
      | none => none

/-- R64: an operand is a decimal number or a `0x` hexadecimal number. -/
def parseNumber : List Char → Option Nat
  | [] => none
  | '0' :: 'x' :: c :: cs => digitsFrom 16 hexDigit 0 (c :: cs)
  | c :: cs => digitsFrom 10 decimalDigit 0 (c :: cs)

/-- The operands of a line, all of which must be numbers. -/
def parseEach : List (List Char) → Option (List Nat)
  | [] => some []
  | p :: ps =>
      match parseNumber (trimBlanks p), parseEach ps with
      | some n, some ns => some (n :: ns)
      | _, _ => none

/-- R64: what follows the mnemonic: nothing, or operands separated by commas. -/
def parseOperands (cs : List Char) : Option (List Nat) :=
  match trimBlanks cs with
  | [] => some []
  | c :: rest => parseEach (splitAtEach ',' (c :: rest))

/-- The statement of a line, its comment taken away (R65). -/
def statementOf (line : List Char) : List Char := trimBlanks (line.takeWhile (fun c => c != ';'))

/-- R64: mnemonic and operands of a statement. -/
def parseStatement (cs : List Char) : Option AsmLine :=
  match opOfMnemonic (cs.takeWhile (fun c => !isBlank c)), parseOperands (cs.dropWhile (fun c => !isBlank c)) with
  | some o, some args => some ⟨o, args⟩
  | _, _ => none

/-- R64 to R66: the request words of one line: none for a line that holds no operation, one for an operation, and no answer for a
line the assembler refuses. -/
def assembleLine (line : List Char) : Option (List ReqWord) :=
  match statementOf line with
  | [] => some []
  | c :: rest =>
      match parseStatement (c :: rest) with
      | some l => l.assemble.map (fun w => [w])
      | none => none

/-- A listing: the request words of its lines in order, no answer where one line is refused. -/
def assembleLines : List (List Char) → Option (List ReqWord)
  | [] => some []
  | l :: ls =>
      match assembleLine l, assembleLines ls with
      | some ws, some rest => some (ws ++ rest)
      | _, _ => none

end Sys2Proof.Machine
end

