-- ==== Sys2Proof/Safety.lean ====
section
/-! DEFINITION. What the claims speak of: the state an outcome leaves, runs, the frames a build can leave, and the invariant of a machine
that has been reset. -/

namespace Sys2Proof.Machine

/-- The next state of an outcome, none where it stops. -/
def nextState? (o : Host.Outcome State Fault Refusal) : Option State :=
  match o with
  | .next s => some s
  | .fault _ => none
  | .refused _ => none

/-- `t` is left by some number of steps from `s`. -/
inductive Reaches (s : State) : State → Prop where
  | here : Reaches s s
  | more {t u : State} : Reaches s t → step t = .next u → Reaches s u

/-- The `OP` values of the six builds (30_encoding.md R59). -/
def frameOpcodes : List Byte := [0x01#8, 0x23#8, 0x24#8, 0x26#8, 0x30#8, 0x41#8]

/-- The twenty bytes are a response frame (42_frame_builder.md R80, R81, 41_checksum.md R78, 20_memory.md R44): an opcode byte, a length
byte that gives the checksum index `k`, the checksum at `k`, and template bytes after it. -/
structure FrameSealed (m : Memory) : Prop where
  opcode : memRead 0 m ∈ frameOpcodes
  sealed : ∃ k : Fin 20, 3 ≤ k.val ∧ k.val ≤ 17 ∧ k.val = 2 + (memRead 1 m).toNat ∧
    memRead k m = csum8 (frameBytes m) k.val ∧ ∀ i : Fin 20, k.val < i.val → memRead i m = tplByte .mask i

/-- What holds of every state a run from reset can be in. -/
structure State.Inv (s : State) : Prop where
  /-- the bytes of `FRAME` are in canonical form -/
  frame_wf : Memory.wf s.frame = true
  /-- `BUSY` is 1 exactly while a request is in flight (R18, R34) -/
  busy_latch : s.status.busy = s.latch.isSome
  /-- while `rst = 1` no request is in flight and `STATUS` holds its reset value (R111) -/
  rst_status : s.rst = true → s.latch = none ∧ s.status = Status.atReset s.status.layout
  /-- an error in `ERR` is the last one on the record (R98, R110) -/
  err_recorded : s.status.err ≠ .ok → s.errors.getLast? = some s.status.err
  /-- only errors are on the record (R110) -/
  errors_real : ErrCode.ok ∉ s.errors
  /-- `done` is reported by a completion, out of reset, with nothing in flight (R31, R112) -/
  done_idle : s.done = true → s.latch = none ∧ s.rst = false
  /-- while `FRV = 1`, `FRAME` is a response frame (R78, R80) -/
  frame_sealed : s.status.frv = true → FrameSealed s.frame

/-- A run so far is free of error completions (R92, R110). -/
def State.ErrorFree (s : State) : Prop := s.errors = []

/-- The end of a run (70_reset_and_hazards.md R124): the host has nothing left to do, no request is offered or in flight. -/
structure State.RunEnded (s : State) : Prop where
  no_move : s.moves = []
  no_offer : s.offer = none
  no_request : s.latch = none

end Sys2Proof.Machine
end

