-- ==== Sys2Proof/Certificates/Slice0/Obligations.lean ====
section
/-! DEFINITION. The statements about TPCODEC. Those of an operation are stated at the request: how its words decode, for every value of
their bits, and the whole next state, so that what a record does not name is unchanged (10_state.md R25). The words of `Stated` spell out
the spec's formulas anew, not through the model's functions. -/

open Sys2Proof Sys2Proof.Machine

namespace Sys2Proof.Stated

/-- The ten `OP` values of 30_encoding.md R58. -/
def opValues : List Byte := [0x01#8, 0x23#8, 0x24#8, 0x26#8, 0x30#8, 0x41#8, 0x80#8, 0x81#8, 0x82#8, 0x83#8]

/-- The bits of a request word an operation uses: 0 where spec/opcode_table.json writes x (R55, R57). -/
def usedBits : Op → ReqWord
  | .frmSetup => 0xFF0000000000000000#72
  | .frmSetProf => 0xFF00FF00FF00000000#72
  | .frmRepProf => 0xFF00FF00FFFFFFFFFF#72
  | .frmUnkA => 0xFF0000000000000000#72
  | .frmTemp => 0xFFFFFFFFFFFFFFFFFF#72
  | .frmUnkB => 0xFF0000000000000000#72
  | .bcdEnc => 0xFFFFFF000000000000#72
  | .bcdChk => 0xFFFFFF000000000000#72
  | .bcdDec => 0xFFFFFF000000000000#72
  | .csum => 0xFFFFFF000000000000#72

/-- The operands of an instruction in the order they are written (R64). -/
def operands : Instr → List Nat
  | .frmSetup => []
  | .frmSetProf p a => [p.toNat, a.toNat]
  | .frmRepProf p a h l => [p.toNat, a.toNat, h.toNat, l.toNat]
  | .frmUnkA => []
  | .frmTemp t0 t1 t2 t3 => [t0.toNat, t1.toNat, t2.toNat, t3.toNat]
  | .frmUnkB => []
  | .bcdEnc v => [v.toNat]
  | .bcdChk v => [v.toNat]
  | .bcdDec v => [v.toNat]
  | .csum n => [n.toNat]

/-- The six builds. -/
def builds : List Op := [.frmSetup, .frmSetProf, .frmRepProf, .frmUnkA, .frmTemp, .frmUnkB]

/-- The decimal digit of `d` whose place value is `p` (40_bcd_codec.md R70). -/
def digit (d : Half) (p : Nat) : Nat := d.toNat / p % 10

/-- The two bytes of a temperature in a frame: thousands and hundreds, tens and units (R70, R86, 00_scope.md R10). -/
def bcdHigh (d : Half) : Byte := BitVec.ofNat 8 (16 * digit d 1000 + digit d 100)
def bcdLow (d : Half) : Byte := BitVec.ofNat 8 (16 * digit d 10 + digit d 1)

/-- The digit fields of R69 as numbers: bytes of `v`, of which the upper two are 0, or nibbles. -/
def field (l : Layout) (v : Half) (j : Nat) : Nat :=
  match l with
  | .byte8 => v.toNat / 256 ^ j % 256
  | .nibble4 => v.toNat / 16 ^ j % 16

/-- R71: every digit field is at most 9. -/
def Passes (l : Layout) (v : Half) : Prop := field l v 0 ≤ 9 ∧ field l v 1 ≤ 9 ∧ field l v 2 ≤ 9 ∧ field l v 3 ≤ 9

/-- What the outputs show under and after reset (70_reset_and_hazards.md R111): `STATUS` 0 but for the layout bit, no other output with a
value, no request in flight, no completion reported. -/
def ShowsReset (l : Layout) (t : State) : Prop :=
  t.latch = none ∧ statusOut t = (if l = .nibble4 then 0x80#8 else 0x00#8) ∧ t.status.layout = l ∧
  resultOut t = none ∧ flagOut t = none ∧ frameOut t = none ∧ t.done = false

/-- The registers a host reads, `BUSY` apart. -/
def SameOutputs (s t : State) : Prop :=
  t.result = s.result ∧ t.flag = s.flag ∧ t.frame = s.frame ∧ t.status.err = s.status.err ∧
  t.status.rv = s.status.rv ∧ t.status.fv = s.status.fv ∧ t.status.frv = s.status.frv

/-- The host is neither about to move `rst` nor holding it at 1. -/
def NoReset (s : State) : Prop :=
  s.rst = false ∧ s.moves.head? ≠ some .assertRst ∧ s.moves.head? ≠ some .releaseRst

end Sys2Proof.Stated

/-! ### Encoding -/

/-- Request words written out from R64 decode to the operations they stand for; 0x25, 0x27, 0xE0, 0x00 and 0x84 are illegal (R61). -/
def Obligations.WordsOfTheSyntaxTableDecode : Prop :=
  decode 0x010000000000000000#72 = .known .frmSetup ∧
  decode 0x230003000200000000#72 = .known (.frmSetProf 3 2) ∧
  decode 0x240002000109050100#72 = .known (.frmRepProf 2 1 0x0905 0x0100) ∧
  decode 0x260000000000000000#72 = .known .frmUnkA ∧
  decode 0x3010E104D2007B0C8A#72 = .known (.frmTemp 4321 1234 123 3210) ∧
  decode 0x410000000000000000#72 = .known .frmUnkB ∧
  decode 0x803039000000000000#72 = .known (.bcdEnc 12345) ∧
  decode 0x810905000000000000#72 = .known (.bcdChk 0x0905) ∧
  decode 0x821234000000000000#72 = .known (.bcdDec 0x1234) ∧
  decode 0x830011000000000000#72 = .known (.csum 17) ∧
  decode 0x250000000000000000#72 = .illegal 0x25 ∧
  decode 0x270000000000000000#72 = .illegal 0x27 ∧
  decode 0xE00000000000000000#72 = .illegal 0xE0 ∧
  decode 0x000000000000000000#72 = .illegal 0x00 ∧
  decode 0x840000000000000000#72 = .illegal 0x84

/-- Decoding the word of any instruction, with any operands, gives the instruction back (R54, R55, R58, R64). -/
def Obligations.DecodeOfEncodeIsTheInstruction : Prop :=
  ∀ i : Instr, decode (encode i) = .known i

/-- The other direction: a word that decodes to an instruction is the instruction's word but for the bits its format ignores (R57). -/
def Obligations.EncodeOfDecodeClearsOnlyIgnoredBits : Prop :=
  ∀ (w : ReqWord) (i : Instr), decode w = .known i → encode i = w &&& Stated.usedBits i.op

/-- R60: decoding looks at `OP` alone for its verdict: one of the ten operations exactly where `OP` is one of the ten values. -/
def Obligations.DecodingLooksAtTheOpByteAlone : Prop :=
  ∀ w : ReqWord,
    (w.extractLsb' 64 8 ∈ Stated.opValues → ∃ i : Instr, decode w = .known i ∧ i.op.code = w.extractLsb' 64 8) ∧
    (w.extractLsb' 64 8 ∉ Stated.opValues → decode w = .illegal (w.extractLsb' 64 8))

/-- R57: two requests for one operation that differ only in ignored bits have the same effect in every state. -/
def Obligations.IgnoredBitsHaveNoEffect : Prop :=
  ∀ (o : Op) (w w' : ReqWord), w.extractLsb' 64 8 = o.code → w &&& Stated.usedBits o = w' &&& Stated.usedBits o →
    ∀ s : State, runRequest (Request.ofWord w) s = runRequest (Request.ofWord w') s

/-- R64: a line assembles to a word exactly where there is an instruction of its mnemonic whose operands, as numbers, are the ones
written; so a line with an operand that does not fit its field, or with too few or too many, is refused. -/
def Obligations.AssemblerTakesExactlyTheLinesThatFit : Prop :=
  ∀ (l : AsmLine) (w : ReqWord),
    l.assemble = some w ↔ ∃ i : Instr, w = encode i ∧ i.op = l.op ∧ Stated.operands i = l.args

/-- R65: a comment never assembles to a request: text after `;` changes nothing, and no line gives more than one request word (R66). -/
def Obligations.CommentsNeverAssemble : Prop :=
  (∀ line comment : List Char, ';' ∉ line → assembleLine (line ++ ';' :: comment) = assembleLine line) ∧
  (∀ comment : List Char, assembleLine (';' :: comment) = some []) ∧
  (∀ (line : List Char) (ws : List ReqWord), assembleLine line = some ws → ws.length ≤ 1)

/-! ### The operation cycle, acceptance, reset, the host -/

/-- R68: with a request in flight whose `OP` is in the map, the block's turn is `exec` of the decoded instruction, on the state with the
waiting move taken and the earlier completion's `done` reported. -/
def Obligations.StepRunsTheRequestInFlight : Prop :=
  ∀ (s : State) (r : Request) (i : Instr), s.latch = some r → s.status.busy = true → s.rst = false → blockToAct s = true →
    decodeRequest r = .known i → step s = exec i { s with moves := s.moves.tail, done := false }

/-- The host's way of placing a request: the very next step runs what the decoder reads from the word (log 7, DESIGN CHOICE). -/
def Obligations.StepRunsAPlacedWord : Prop :=
  ∀ (s : State) (w : Nat) (i : Instr), w < 2 ^ 72 → decodeTableWord 72 w = some i →
    step (s.withFetchWord 72 w) =
      exec i { s with latch := some (Request.ofWord (BitVec.ofNat 72 w)), status := { s.status with busy := true }
                      rst := false, done := false }

/-- R93, R96: a request whose `OP` is not in the map commits `ERR = 1` together with `BUSY = 0` and nothing else. That the step also takes the
waiting move, records the error and reports `done` is the model's form of R31 and R110 (log 6, 8, 9). -/
def Obligations.IllegalOpCommitsErrAlone : Prop :=
  ∀ (s : State) (r : Request), s.latch = some r → s.status.busy = true → s.rst = false → blockToAct s = true →
    r.op ∉ Stated.opValues →
    step s = .next { s with latch := none, status := { s.status with busy := false, err := .illegalOp }
                            moves := s.moves.tail, done := true, errors := s.errors ++ [.illegalOp] }

/-- R30: with a request offered and `req_ready = 1`, the request is accepted: its fields are latched (R54) and `BUSY` is set. -/
def Obligations.ReadyBlockAcceptsTheOfferedRequest : Prop :=
  ∀ (s : State) (w : ReqWord), s.offer = some w → s.status.busy = false → s.rst = false →
    step s = .next { s with
      latch := some ⟨w.extractLsb' 64 8, w.extractLsb' 48 16, w.extractLsb' 32 16, w.extractLsb' 16 16, w.extractLsb' 0 16⟩
      status := { s.status with busy := true }, offer := none, done := false }

/-- R30: a request offered while `req_ready = 0` is not accepted and not lost: it stays offered until the host withdraws it. -/
def Obligations.RequestOfferedEarlyIsHeld : Prop :=
  ∀ (s t : State) (w : ReqWord), s.offer = some w → (s.status.busy = true ∨ s.rst = true) → s.moves.head? ≠ some .withdraw →
    step s = .next t → t.offer = some w ∧ (t.latch = s.latch ∨ t.latch = none)

/-- R16, R46: the latch holds a request unchanged until its operation completes or reset abandons it; no other request replaces it. -/
def Obligations.LatchHoldsUntilCompletion : Prop :=
  ∀ (s t : State) (r : Request), s.Inv → s.latch = some r → step s = .next t →
    t.latch = some r ∨ (t.latch = none ∧ t.done = true) ∨ (t.latch = none ∧ t.rst = true)

/-- R31, R92: every accepted operation completes, whatever request it is: `BUSY` falls, the latch is empty, `done` reports. R31 says when only by
`LATENCY`; that completion is at the first turn the host leaves to the block is the model's choice (log 5, DESIGN CHOICE, unsafe). -/
def Obligations.AcceptedOperationCompletes : Prop :=
  ∀ (s : State) (r : Request), s.latch = some r → s.status.busy = true → s.rst = false → blockToAct s = true →
    ∃ t : State, step s = .next t ∧ t.latch = none ∧ t.status.busy = false ∧ t.done = true

/-- R43: however many reads the host makes of outputs that hold a value, the operation in flight has the effect it has at once. R123 leaves the
time to completion open; that it is a number of host moves, here `n` reads, and that completion is exactly at step `n + 1`, the block's first
turn, are the model's choice (log 5, DESIGN CHOICE, unsafe; log 6). -/
def Obligations.ReadsBeforeCompletionDoNotChangeAnOperation : Prop :=
  ∀ (s : State) (r : Request), s.latch = some r → s.status.busy = true → s.rst = false →
    (∀ m ∈ s.moves, ∃ o : Output, m = .read o ∧ hostRead o s = .next s) →
    ∃ t : State, runRequest r { s with moves := [], done := false } = .next t ∧
      Host.Core.run Sys2Proof.core (s.moves.length + 1) s = .next t

/-- R108: with no request in flight and none offered, the block holds its state; only the turn passes. -/
def Obligations.IdleBlockHoldsItsState : Prop :=
  ∀ s : State, s.latch = none → s.offer = none → s.rst = false → blockToAct s = true →
    step s = .next { s with moves := s.moves.tail, done := false }

/-- R108, R124: once a run has ended, the block holds its state indefinitely: any number of steps leaves it, `done` reported apart (log 8). -/
def Obligations.EndedRunHoldsItsStateIndefinitely : Prop :=
  ∀ (s : State) (k : Nat), s.RunEnded → s.rst = false →
    Host.Core.run Sys2Proof.core (k + 1) s = .next { s with done := false }

/-- R111 (the values the spec gives): right after reset, for either layout; `req_ready` is 1, the template is R20's, and the default layout is
`BYTE8` (R6). -/
def Obligations.StateRightAfterReset : Prop :=
  State.reset = State.resetWith .byte8 ∧
  ∀ l : Layout, Stated.ShowsReset l (State.resetWith l) ∧ reqReady (State.resetWith l) = true ∧
    (List.finRange 20).map (tplByte (State.resetWith l).tpl) =
      [0x00, 0x11, 0x22, 0x33, 0x44, 0x55, 0x66, 0x77, 0x88, 0x99, 0xAA, 0xBB, 0xCC, 0xDD, 0xEE, 0xFF, 0x17, 0x18, 0x19, 0x20]

/-- R111, R112, R113: when `rst` rises, in every turn while it is 1, and when it falls, the block shows the reset state; a request offered is not
accepted, and the layout and the template stay. -/
def Obligations.ResetIsHeldWhileRstIsHigh : Prop :=
  ∀ (s : State) (ms : List HostMove),
    (s.moves = .assertRst :: ms → (s.offer = none ∨ reqReady s = false) →
      ∃ t, step s = .next t ∧ Stated.ShowsReset s.status.layout t ∧ t.tpl = s.tpl ∧ t.rst = true ∧ reqReady t = false ∧ t.offer = s.offer) ∧
    (s.rst = true → blockToAct s = true →
      ∃ t, step s = .next t ∧ Stated.ShowsReset s.status.layout t ∧ t.tpl = s.tpl ∧ t.rst = true ∧ reqReady t = false ∧ t.offer = s.offer) ∧
    (s.rst = true → s.moves = .releaseRst :: ms →
      ∃ t, step s = .next t ∧ Stated.ShowsReset s.status.layout t ∧ t.tpl = s.tpl ∧ t.rst = false ∧ reqReady t = true ∧ t.offer = s.offer)

/-- R112: if `rst` rises while an operation is in flight, the operation is abandoned: the state becomes that of R111, nothing of the operation is
committed, and `done` does not report it. Two clauses are the model's and not R112's: that reset keeps the record of errors is read from R110
(log 9, DEDUCED), and that the host's move is taken off the list is log 6 (DESIGN CHOICE). -/
def Obligations.ResetAbandonsTheOperationInFlight : Prop :=
  ∀ (s : State) (r : Request) (ms : List HostMove), s.latch = some r → s.status.busy = true → s.moves = .assertRst :: ms →
    ∃ t, step s = .next t ∧ Stated.ShowsReset s.status.layout t ∧ t.rst = true ∧ t.moves = ms ∧ t.errors = s.errors

/-- R26: a host read of an output whose valid bit is 0 faults. -/
def Obligations.ReadOfAnOutputWithoutValueFaults : Prop :=
  ∀ (s : State) (ms : List HostMove), (s.offer = none ∨ reqReady s = false) →
    (s.moves = .read .result :: ms → s.status.rv = false → step s = .fault .resultNoValue) ∧
    (s.moves = .read .flag :: ms → s.status.fv = false → step s = .fault .flagNoValue) ∧
    (s.moves = .read .frame :: ms → s.status.frv = false → step s = .fault .frameNoValue)

/-- R43: a host read of an output that holds a value changes no register; only the host's move is taken, and `done` has been reported (log 8). -/
def Obligations.HostReadHasNoSideEffect : Prop :=
  ∀ (s : State) (o : Output) (ms : List HostMove), (s.offer = none ∨ reqReady s = false) → s.moves = .read o :: ms →
    (o = .status ∨ (o = .result ∧ (resultOut s).isSome) ∨ (o = .flag ∧ (flagOut s).isSome) ∨ (o = .frame ∧ (frameOut s).isSome)) →
    step s = .next { s with moves := ms, done := false }

/-- I17, log 14 (DESIGN CHOICE): a host that replaces a word still on offer by another has no move. -/
def Obligations.ReplacingAnOfferIsNoMove : Prop :=
  ∀ (s : State) (w w' : ReqWord) (ms : List HostMove), s.offer = some w → reqReady s = false → s.moves = .offer w' :: ms →
    w' ≠ w → step s = .refused .hostChangesOffer

/-- R17, R92, R24: where the fields of `STATUS` stand in the word the host reads. -/
def Obligations.StatusWordHoldsItsFields : Prop :=
  ∀ s : State,
    (statusOut s).getLsbD 0 = s.status.busy ∧
    ((statusOut s).extractLsb' 1 3).toNat =
      (match s.status.err with | .ok => 0 | .illegalOp => 1 | .badCount => 2 | .frameInvalid => 3) ∧
    (statusOut s).getLsbD 4 = s.status.rv ∧ (statusOut s).getLsbD 5 = s.status.fv ∧ (statusOut s).getLsbD 6 = s.status.frv ∧
    (statusOut s).getLsbD 7 = decide (s.status.layout = .nibble4)

/-- R32: `FRAME[i]` occupies bits `159 - 8i : 152 - 8i` of the `frame` output. -/
def Obligations.FrameOutputPacksByteZeroMostSignificant : Prop :=
  ∀ (s : State) (i : Fin 20), s.status.frv = true →
    ∃ f : FrameWord, frameOut s = some f ∧ f.extractLsb' (152 - 8 * i.val) 8 = memRead i s.frame

/-! ### Rules of the whole machine -/

/-- Every step keeps the invariant. -/
def Obligations.EveryStepKeepsTheInvariant : Prop :=
  ∀ s t : State, s.Inv → step s = .next t → t.Inv

/-- The state right after reset, of either layout and with any moves of the host to come, meets the invariant. -/
def Obligations.ResetStateMeetsTheInvariant : Prop :=
  ∀ (l : Layout) (ms : List HostMove), ({ State.resetWith l with moves := ms } : State).Inv

/-- R78, R80: in every run from reset, whatever the host does (a corollary of `EveryStepKeepsTheInvariant` and
`ResetStateMeetsTheInvariant`), a frame it can read is a whole response frame with its own checksum and the template after it. -/
def Obligations.EveryRunShowsOnlySealedFrames : Prop :=
  ∀ (l : Layout) (ms : List HostMove) (t : State), Reaches { State.resetWith l with moves := ms } t →
    t.status.frv = true → FrameSealed t.frame

/-- R47, R48, R117: the registers a host reads change only in a step that completes an operation (and reports `done`) or under reset. -/
def Obligations.OutputsChangeOnlyAtCompletion : Prop :=
  ∀ s t : State, Stated.NoReset s → step s = .next t → t.done = false → Stated.SameOutputs s t

/-- R24, R113: no step of any kind changes the layout or the template. -/
def Obligations.NoStepChangesLayoutOrTemplate : Prop :=
  ∀ s t : State, step s = .next t → t.status.layout = s.status.layout ∧ ∀ i : Fin 20, tplByte t.tpl i = tplByte s.tpl i

/-- R19: no operation clears a valid bit; only reset does. -/
def Obligations.OnlyResetClearsValidBits : Prop :=
  ∀ s t : State, Stated.NoReset s → step s = .next t →
    (s.status.rv = true → t.status.rv = true) ∧ (s.status.fv = true → t.status.fv = true) ∧ (s.status.frv = true → t.status.frv = true)

/-- R98, R110: a completion writes `ERR`, 0 on success and the code on an error, and the record of errors grows by exactly the errors; no step of
any kind, reset among them, takes an entry off it. -/
def Obligations.ErrorRecordGrowsByExactlyTheErrors : Prop :=
  ∀ s t : State, step s = .next t →
    (t.done = false ∧ t.errors = s.errors) ∨
    (t.done = true ∧ t.status.err = .ok ∧ t.errors = s.errors) ∨
    (t.done = true ∧ t.status.err ≠ .ok ∧ t.errors = s.errors ++ [t.status.err])

/-- R25: the write set of each operation on success, and on an error `ERR` alone; every byte of `FRAME` an operation does not write reads as
before. -/
def Obligations.EachOperationWritesItsWriteSetAlone : Prop :=
  ∀ (i : Instr) (s : State), ∃ t : State, exec i s = .next t ∧
    t.latch = none ∧ t.status.busy = false ∧ t.done = true ∧ t.status.layout = s.status.layout ∧
    t.tpl = s.tpl ∧ t.rst = s.rst ∧ t.offer = s.offer ∧ t.moves = s.moves ∧
    (t.status.err = .ok →
      (i.op ∈ [Op.bcdEnc, .bcdDec, .csum] → t.status.rv = true ∧ t.flag = s.flag ∧ t.status.fv = s.status.fv ∧
        t.status.frv = s.status.frv ∧ ∀ k, memRead k t.frame = memRead k s.frame) ∧
      (i.op = .bcdChk → t.status.fv = true ∧ t.result = s.result ∧ t.status.rv = s.status.rv ∧
        t.status.frv = s.status.frv ∧ ∀ k, memRead k t.frame = memRead k s.frame) ∧
      (i.op ∈ Stated.builds → t.status.frv = true ∧ t.result = s.result ∧ t.status.rv = s.status.rv ∧
        t.flag = s.flag ∧ t.status.fv = s.status.fv)) ∧
    (t.status.err ≠ .ok → t.result = s.result ∧ t.flag = s.flag ∧ t.status.rv = s.status.rv ∧ t.status.fv = s.status.fv ∧
      t.status.frv = s.status.frv ∧ ∀ k, memRead k t.frame = memRead k s.frame)

/-- R92: no operation but `CSUM` can fail, whatever its operands and the state. -/
def Obligations.OnlyCsumCanFail : Prop :=
  ∀ (i : Instr) (s : State), i.op ≠ .csum → ∃ t : State, exec i s = .next t ∧ t.status.err = .ok ∧ t.errors = s.errors

/-- R92: no error is recorded by a step whose request in flight, if there is one, is an operation other than `CSUM`; so a host that issues neither
`CSUM` nor an `OP` outside the map never sees an error. The record is the model's (log 9). -/
def Obligations.NoErrorWithoutCsumOrIllegalOp : Prop :=
  ∀ s t : State, s.ErrorFree → (∀ r : Request, s.latch = some r → ∃ i : Instr, decodeRequest r = .known i ∧ i.op ≠ .csum) →
    step s = .next t → t.ErrorFree

/-- R13: no operation reads a value left by an earlier operation, except `CSUM`, which reads `FRAME` (and `FRV`). -/
def Obligations.OperationsDoNotReadEarlierResults : Prop :=
  (∀ (i : Instr) (s s' : State), i.op ≠ .csum → s.status.layout = s'.status.layout →
    ∃ t t' : State, exec i s = .next t ∧ exec i s' = .next t' ∧
      (i.op ∈ [Op.bcdEnc, .bcdDec] → t.result = t'.result) ∧
      (i.op = .bcdChk → t.flag = t'.flag) ∧
      (i.op ∈ Stated.builds → ∀ k, memRead k t.frame = memRead k t'.frame)) ∧
  (∀ (n : Half) (s s' : State), s.status.frv = s'.status.frv → (∀ k, memRead k s.frame = memRead k s'.frame) →
    ∃ t t' : State, exec (.csum n) s = .next t ∧ exec (.csum n) s' = .next t' ∧ t.status.err = t'.status.err ∧
      (t.status.err = .ok → t.result = t'.result))

/-- The canonical form is one for each contents: two canonical memories that read alike at all twenty indices are equal data. -/
def Obligations.FramesThatReadAlikeAreEqual : Prop :=
  ∀ m m' : Memory, Memory.wf m = true → Memory.wf m' = true → (∀ i : Fin 20, memRead i m = memRead i m') → m = m'

/-! ### The BCD codec -/

/-- R70: `BCD.ENC`. -/
def Obligations.BcdEncWritesTheFourLowDigits : Prop :=
  ∀ (a0 a1 a2 a3 : Half) (s : State),
    decodeRequest ⟨0x80#8, a0, a1, a2, a3⟩ = .known (.bcdEnc a0) ∧
    exec (.bcdEnc a0) s = .next { s with
      latch := none, done := true, status := { s.status with busy := false, err := .ok, rv := true }
      result := BitVec.ofNat 16 (4096 * Stated.digit a0 1000 + 256 * Stated.digit a0 100 + 16 * Stated.digit a0 10 + Stated.digit a0 1) }

/-- R71: `BCD.CHK`, under either layout. -/
def Obligations.BcdChkWritesWhetherEveryFieldIsADigit : Prop :=
  ∀ (a0 a1 a2 a3 : Half) (s : State),
    decodeRequest ⟨0x81#8, a0, a1, a2, a3⟩ = .known (.bcdChk a0) ∧
    ∃ b : Bool, (b = true ↔ Stated.Passes s.status.layout a0) ∧
      exec (.bcdChk a0) s = .next { s with
        latch := none, done := true, status := { s.status with busy := false, err := .ok, fv := true }, flag := b }

/-- R72: `BCD.DEC`, under either layout: the place values of the fields, or the sentinel; the failing input is no error. -/
def Obligations.BcdDecWritesTheValueOrTheSentinel : Prop :=
  ∀ (a0 a1 a2 a3 : Half) (s : State),
    decodeRequest ⟨0x82#8, a0, a1, a2, a3⟩ = .known (.bcdDec a0) ∧
    ∃ v : Half,
      (Stated.Passes s.status.layout a0 → v.toNat = Stated.field s.status.layout a0 0 + 10 * Stated.field s.status.layout a0 1
        + 100 * Stated.field s.status.layout a0 2 + 1000 * Stated.field s.status.layout a0 3) ∧
      (¬ Stated.Passes s.status.layout a0 → v = 0xFFFF#16) ∧
      exec (.bcdDec a0) s = .next { s with
        latch := none, done := true, status := { s.status with busy := false, err := .ok, rv := true }, result := v }

/-- R73: the laws of `BCD.ENC`: every nibble is the decimal digit of its lane, the result depends on the value modulo 10000, and it is injective
below 10000. -/
def Obligations.BcdEncLanesAndInjectivity : Prop :=
  ∀ (d d' : Half) (s : State), ∃ t t' : State, exec (.bcdEnc d) s = .next t ∧ exec (.bcdEnc d') s = .next t' ∧
    (∀ j : Fin 4, t.result.toNat / 16 ^ j.val % 16 = d.toNat / 10 ^ j.val % 10) ∧
    (d.toNat % 10000 = d'.toNat % 10000 → t.result = t'.result) ∧
    (d.toNat < 10000 → d'.toNat < 10000 → t.result = t'.result → d = d')

/-- R74: the laws of `BCD.CHK` and `BCD.DEC`, for either layout: the sentinel exactly where the check fails, the range of a decoded value, and that
`BYTE8` is the stricter check. -/
def Obligations.CheckAndDecodeAgree : Prop :=
  ∀ (v : Half) (s s' : State), s.status.layout = .byte8 → s'.status.layout = .nibble4 →
    ∃ tc td tc' td' : State, exec (.bcdChk v) s = .next tc ∧ exec (.bcdDec v) s = .next td ∧
      exec (.bcdChk v) s' = .next tc' ∧ exec (.bcdDec v) s' = .next td' ∧
      (td.result = 0xFFFF#16 ↔ tc.flag = false) ∧ (td'.result = 0xFFFF#16 ↔ tc'.flag = false) ∧
      (tc.flag = true → td.result.toNat ≤ 99) ∧ (tc'.flag = true → td'.result.toNat ≤ 9999) ∧
      (tc.flag = true → tc'.flag = true)

/-- R75 as the rules R69, R70 and R72 give it: the round trip of `BCD.ENC` and `BCD.DEC`, for every value below 10000 under `NIBBLE4`; under
`BYTE8` for 0..9 only, a value whose tens and thousands are 0 decoding to another value, every other value above 9 to the sentinel. R75's own
words for 10..9999 under `BYTE8` claim more (log 16); they are the statement after this one. -/
def Obligations.EncodeDecodeRoundTrip : Prop :=
  ∀ (d : Half) (s : State), d.toNat < 10000 →
    ∃ t u : State, exec (.bcdEnc d) s = .next t ∧ exec (.bcdDec t.result) t = .next u ∧
      (s.status.layout = .nibble4 → u.result = d) ∧
      (s.status.layout = .byte8 → (u.result = d ↔ d.toNat ≤ 9)) ∧
      (s.status.layout = .byte8 → Stated.digit d 10 = 0 ∧ Stated.digit d 1000 = 0 →
        u.result.toNat = Stated.digit d 1 + 10 * Stated.digit d 100) ∧
      (s.status.layout = .byte8 → ¬ (Stated.digit d 10 = 0 ∧ Stated.digit d 1000 = 0) → u.result = 0xFFFF#16)

/-- R75 as it is worded: the round trip for every value below 10000 under `NIBBLE4`; under `BYTE8` for 0..9, and for every value in 10..9999 a
byte above 9 in the encoding and the sentinel from decoding it. Expected to FAIL by its last clause: `BCD.ENC 100` is 0x0100, whose bytes are 1
and 0, and which decodes to 10 (95_test_vectors.md V1, V2; log 16). -/
def Obligations.RoundTripAsR75WordsIt : Prop :=
  ∀ (d : Half) (s : State), d.toNat < 10000 →
    ∃ t u : State, exec (.bcdEnc d) s = .next t ∧ exec (.bcdDec t.result) t = .next u ∧
      (s.status.layout = .nibble4 → u.result = d) ∧
      (s.status.layout = .byte8 → d.toNat ≤ 9 → u.result = d) ∧
      (s.status.layout = .byte8 → 10 ≤ d.toNat →
        (9 < t.result.toNat % 256 ∨ 9 < t.result.toNat / 256) ∧ u.result = 0xFFFF#16)

/-! ### The checksum engine -/

/-- R76, R77: `CSUM` of a count up to 20 on a built frame: the sum of the first `n` bytes modulo 256, zero-extended. -/
def Obligations.CsumWritesTheSumOfTheFirstBytes : Prop :=
  ∀ (a0 a1 a2 a3 : Half) (s : State),
    decodeRequest ⟨0x83#8, a0, a1, a2, a3⟩ = .known (.csum a0) ∧
    (a0.toNat ≤ 20 → s.status.frv = true →
      exec (.csum a0) s = .next { s with
        latch := none, done := true, status := { s.status with busy := false, err := .ok, rv := true }
        result := BitVec.ofNat 16 ((∑ i : Fin 20, if i.val < a0.toNat then (memRead i s.frame).toNat else 0) % 256) })

/-- R94, R95, R96, R97: `CSUM` of a count above 20 raises `BAD_COUNT`, also where no frame has been built; of a count up to 20 without a frame,
`FRAME_INVALID`; and commits `ERR` alone. The record of errors is the model's own (log 9). -/
def Obligations.CsumErrorsComeInOrder : Prop :=
  ∀ (n : Half) (s : State),
    (20 < n.toNat → exec (.csum n) s = .next { s with
      latch := none, done := true, status := { s.status with busy := false, err := .badCount }, errors := s.errors ++ [.badCount] }) ∧
    (n.toNat ≤ 20 → s.status.frv = false → exec (.csum n) s = .next { s with
      latch := none, done := true, status := { s.status with busy := false, err := .frameInvalid }, errors := s.errors ++ [.frameInvalid] })

/-- R78: after every build, with `k` the checksum index, `FRAME[k]` is the sum of the bytes before it modulo 256, and `CSUM k` returns it. -/
def Obligations.EveryBuildSatisfiesTheChecksumLaw : Prop :=
  ∀ (i : Instr) (s : State), i.op ∈ Stated.builds →
    ∃ (t u : State) (k : Fin 20), exec i s = .next t ∧ k.val = 2 + (memRead 1 t.frame).toNat ∧
      (memRead k t.frame).toNat = (∑ j : Fin 20, if j.val < k.val then (memRead j t.frame).toNat else 0) % 256 ∧
      exec (.csum (BitVec.ofNat 16 k.val)) t = .next u ∧ u.status.err = .ok ∧ u.result.toNat = (memRead k t.frame).toNat

/-- R81, R59: the opcode byte is the build's `OP`, and the length byte is the checksum index less 2, (k, length) as R81 lists them. -/
def Obligations.OpcodeAndLengthByteOfEveryBuild : Prop :=
  ∀ (i : Instr) (s : State), i.op ∈ Stated.builds →
    ∃ t : State, exec i s = .next t ∧ memRead 0 t.frame = i.op.code ∧
      memRead 1 t.frame = (match i.op with
        | .frmSetup => 0x01#8 | .frmSetProf => 0x02#8 | .frmRepProf => 0x06#8
        | .frmUnkA => 0x05#8 | .frmTemp => 0x0F#8 | .frmUnkB => 0x02#8
        | .bcdEnc => 0#8 | .bcdChk => 0#8 | .bcdDec => 0#8 | .csum => 0#8) ∧
      (∀ j : Fin 20, 2 + (memRead 1 t.frame).toNat < j.val → memRead j t.frame = tplByte s.tpl j)

/-- R79: a byte at or after the checksum index is not covered: changing it leaves what `CSUM k` returns. -/
def Obligations.ChecksumDoesNotCoverLaterBytes : Prop :=
  ∀ (s : State) (k i : Fin 20) (v : Byte), k.val ≤ i.val → s.status.frv = true →
    ∃ t t' : State, exec (.csum (BitVec.ofNat 16 k.val)) s = .next t ∧
      exec (.csum (BitVec.ofNat 16 k.val)) { s with frame := memWrite i v s.frame } = .next t' ∧ t.result = t'.result ∧
      t.status.err = .ok ∧ t'.status.err = .ok

/-! ### The frame builder -/

/-- R82: `FRM.SETUP`. -/
def Obligations.SetupBuildsItsFrame : Prop :=
  ∀ (a0 a1 a2 a3 : Half) (s : State),
    decodeRequest ⟨0x01#8, a0, a1, a2, a3⟩ = .known .frmSetup ∧
    ∃ m : Memory, exec .frmSetup s = .next { s with
        latch := none, done := true, status := { s.status with busy := false, err := .ok, frv := true }, frame := m } ∧
      frameBytes m = [0x01, 0x01, 0x0A, 0x0C, 0x44, 0x55, 0x66, 0x77, 0x88, 0x99,
                      0xAA, 0xBB, 0xCC, 0xDD, 0xEE, 0xFF, 0x17, 0x18, 0x19, 0x20]

/-- R83: `FRM.SETPROF`, for every probe and alarm index (R89). -/
def Obligations.SetProfBuildsItsFrame : Prop :=
  ∀ (a0 a1 a2 a3 : Half) (s : State),
    decodeRequest ⟨0x23#8, a0, a1, a2, a3⟩ = .known (.frmSetProf (a0.extractLsb' 0 8) (a1.extractLsb' 0 8)) ∧
    ∀ p a : Byte, ∃ m : Memory, exec (.frmSetProf p a) s = .next { s with
        latch := none, done := true, status := { s.status with busy := false, err := .ok, frv := true }, frame := m } ∧
      frameBytes m = [0x23, 0x02, p, a, BitVec.ofNat 8 ((0x25 + p.toNat + a.toNat) % 256), 0x55, 0x66, 0x77, 0x88, 0x99,
                      0xAA, 0xBB, 0xCC, 0xDD, 0xEE, 0xFF, 0x17, 0x18, 0x19, 0x20]

/-- R84: `FRM.REPPROF`, the thresholds verbatim and big-endian. -/
def Obligations.RepProfBuildsItsFrame : Prop :=
  ∀ (a0 a1 a2 a3 : Half) (s : State),
    decodeRequest ⟨0x24#8, a0, a1, a2, a3⟩ = .known (.frmRepProf (a0.extractLsb' 0 8) (a1.extractLsb' 0 8) a2 a3) ∧
    ∀ (p a : Byte) (h l : Half), ∃ m : Memory, exec (.frmRepProf p a h l) s = .next { s with
        latch := none, done := true, status := { s.status with busy := false, err := .ok, frv := true }, frame := m } ∧
      frameBytes m = [0x24, 0x06, p, a, h.extractLsb' 8 8, h.extractLsb' 0 8, l.extractLsb' 8 8, l.extractLsb' 0 8,
                      BitVec.ofNat 8 ((0x24 + 0x06 + p.toNat + a.toNat + h.toNat / 256 + h.toNat % 256 + l.toNat / 256 + l.toNat % 256) % 256),
                      0x99, 0xAA, 0xBB, 0xCC, 0xDD, 0xEE, 0xFF, 0x17, 0x18, 0x19, 0x20]

/-- R85: `FRM.UNKA`. -/
def Obligations.UnkABuildsItsFrame : Prop :=
  ∀ (a0 a1 a2 a3 : Half) (s : State),
    decodeRequest ⟨0x26#8, a0, a1, a2, a3⟩ = .known .frmUnkA ∧
    ∃ m : Memory, exec .frmUnkA s = .next { s with
        latch := none, done := true, status := { s.status with busy := false, err := .ok, frv := true }, frame := m } ∧
      frameBytes m = [0x26, 0x05, 0x0C, 0x0C, 0x5A, 0x03, 0x0F, 0xAF, 0x88, 0x99,
                      0xAA, 0xBB, 0xCC, 0xDD, 0xEE, 0xFF, 0x17, 0x18, 0x19, 0x20]

/-- R86, R90, R91: `FRM.TEMP`, the four temperatures in order, BCD-encoded and big-endian; `RESULT` and `RV` are not written. -/
def Obligations.TempBuildsItsFrame : Prop :=
  ∀ (a0 a1 a2 a3 : Half) (s : State),
    decodeRequest ⟨0x30#8, a0, a1, a2, a3⟩ = .known (.frmTemp a0 a1 a2 a3) ∧
    ∃ m : Memory, exec (.frmTemp a0 a1 a2 a3) s = .next { s with
        latch := none, done := true, status := { s.status with busy := false, err := .ok, frv := true }, frame := m } ∧
      frameBytes m = [0x30, 0x0F, 0x5A, 0x0C, 0x00, Stated.bcdHigh a0, Stated.bcdLow a0, Stated.bcdHigh a1, Stated.bcdLow a1,
                      Stated.bcdHigh a2, Stated.bcdLow a2, Stated.bcdHigh a3, Stated.bcdLow a3, 0xFF, 0xFF, 0xFF, 0xFF,
                      BitVec.ofNat 8 ((0x30 + 0x0F + 0x5A + 0x0C + (Stated.bcdHigh a0).toNat + (Stated.bcdLow a0).toNat
                        + (Stated.bcdHigh a1).toNat + (Stated.bcdLow a1).toNat + (Stated.bcdHigh a2).toNat + (Stated.bcdLow a2).toNat
                        + (Stated.bcdHigh a3).toNat + (Stated.bcdLow a3).toNat + 4 * 0xFF) % 256),
                      0x19, 0x20]

/-- R87: `FRM.UNKB`. -/
def Obligations.UnkBBuildsItsFrame : Prop :=
  ∀ (a0 a1 a2 a3 : Half) (s : State),
    decodeRequest ⟨0x41#8, a0, a1, a2, a3⟩ = .known .frmUnkB ∧
    ∃ m : Memory, exec .frmUnkB s = .next { s with
        latch := none, done := true, status := { s.status with busy := false, err := .ok, frv := true }, frame := m } ∧
      frameBytes m = [0x41, 0x02, 0x31, 0x11, 0x85, 0x55, 0x66, 0x77, 0x88, 0x99,
                      0xAA, 0xBB, 0xCC, 0xDD, 0xEE, 0xFF, 0x17, 0x18, 0x19, 0x20]
end

