-- ==== Sys2Proof/Laws/Codec.lean ====
section
/-! SUPPORT. The codec in plain arithmetic: what its bit operations compute, as numbers. -/

namespace Sys2Proof.Machine

/-- R70: `BCD.ENC` as a number. -/
theorem bcdEnc_toNat (v : Half) : (bcdEnc v).toNat =
    4096 * (v.toNat / 1000 % 10) + 256 * (v.toNat / 100 % 10) + 16 * (v.toNat / 10 % 10) + v.toNat % 10 := by
  have hk := Nat.mod_lt (v.toNat / 1000) (by decide : 0 < 10)
  have hh := Nat.mod_lt (v.toNat / 100) (by decide : 0 < 10)
  have ht := Nat.mod_lt (v.toNat / 10) (by decide : 0 < 10)
  have hu := Nat.mod_lt v.toNat (by decide : 0 < 10)
  simp only [bcdEnc, BitVec.toNat_append, BitVec.toNat_ofNat, Nat.reducePow]
  rw [← Nat.shiftLeft_add_eq_or_of_lt (by omega), ← Nat.shiftLeft_add_eq_or_of_lt (by omega),
    ← Nat.shiftLeft_add_eq_or_of_lt (by omega)]
  simp only [Nat.shiftLeft_eq]
  omega

/-- Four digits below 10 placed in nibbles can be read back from them. -/
theorem nibbles_of_digits {k h t u : Nat} (hk : k < 10) (hh : h < 10) (ht : t < 10) (hu : u < 10) :
    (4096 * k + 256 * h + 16 * t + u) % 16 = u ∧ (4096 * k + 256 * h + 16 * t + u) / 16 % 16 = t ∧
    (4096 * k + 256 * h + 16 * t + u) / 256 % 16 = h ∧ (4096 * k + 256 * h + 16 * t + u) / 4096 % 16 = k ∧
    (4096 * k + 256 * h + 16 * t + u) % 256 = 16 * t + u ∧ (4096 * k + 256 * h + 16 * t + u) / 256 = 16 * k + h := by
  omega

/-- The lanes and the bytes of `BCD.ENC`'s result, from the low end (R73). -/
theorem bcdEnc_lanes (v : Half) :
    (bcdEnc v).toNat % 16 = v.toNat % 10 ∧ (bcdEnc v).toNat / 16 % 16 = v.toNat / 10 % 10 ∧
    (bcdEnc v).toNat / 256 % 16 = v.toNat / 100 % 10 ∧ (bcdEnc v).toNat / 4096 % 16 = v.toNat / 1000 % 10 ∧
    (bcdEnc v).toNat % 256 = 16 * (v.toNat / 10 % 10) + v.toNat % 10 ∧
    (bcdEnc v).toNat / 256 = 16 * (v.toNat / 1000 % 10) + v.toNat / 100 % 10 := by
  rw [bcdEnc_toNat]
  exact nibbles_of_digits (Nat.mod_lt _ (by decide)) (Nat.mod_lt _ (by decide)) (Nat.mod_lt _ (by decide)) (Nat.mod_lt _ (by decide))

/-- A value below 10000 is the sum of its four digits at their places (R73). -/
theorem digits_sum {d : Nat} (h : d < 10000) : d % 10 + 10 * (d / 10 % 10) + 100 * (d / 100 % 10) + 1000 * (d / 1000 % 10) = d := by
  have h2 : d / 100 = d / 10 / 10 := (Nat.div_div_eq_div_mul d 10 10).symm
  have h3 : d / 1000 = d / 10 / 10 / 10 := by rw [Nat.div_div_eq_div_mul, Nat.div_div_eq_div_mul]
  omega

/-- R69: the byte fields as numbers; the upper two are 0. -/
theorem digitFields_byte8 (v : Half) : digitFields .byte8 v = [v.toNat % 256, v.toNat / 256, 0, 0] := by
  have := v.isLt
  simp only [digitFields, BitVec.extractLsb'_toNat, BitVec.toNat_setWidth, Nat.shiftRight_eq_div_pow, List.cons.injEq, and_true]
  omega

/-- R69: the nibble fields as numbers. -/
theorem digitFields_nibble4 (v : Half) : digitFields .nibble4 v =
    [v.toNat % 16, v.toNat / 16 % 16, v.toNat / 256 % 16, v.toNat / 4096 % 16] := by
  simp only [digitFields, BitVec.extractLsb'_toNat, Nat.shiftRight_eq_div_pow, List.cons.injEq, and_true]
  omega

/-- R71 under `BYTE8`. -/
theorem isBcd_byte8 (v : Half) : isBcd .byte8 v = true ↔ v.toNat % 256 ≤ 9 ∧ v.toNat / 256 ≤ 9 := by
  simp [isBcd, digitFields_byte8]

/-- R71 under `NIBBLE4`. -/
theorem isBcd_nibble4 (v : Half) : isBcd .nibble4 v = true ↔
    v.toNat % 16 ≤ 9 ∧ v.toNat / 16 % 16 ≤ 9 ∧ v.toNat / 256 % 16 ≤ 9 ∧ v.toNat / 4096 % 16 ≤ 9 := by
  simp [isBcd, digitFields_nibble4]

/-- R72: a value that fails the check gives the sentinel. -/
theorem bcdDec_fails {l : Layout} {v : Half} (h : isBcd l v = false) : bcdDec l v = 0xFFFF#16 := by simp [bcdDec, h]

/-- R72 under `BYTE8`, for a value that passes. -/
theorem bcdDec_byte8 {v : Half} (h : isBcd .byte8 v = true) : (bcdDec .byte8 v).toNat = v.toNat % 256 + 10 * (v.toNat / 256) := by
  have := (isBcd_byte8 v).mp h
  simp only [bcdDec, h, if_true, digitFields_byte8, placeValue, BitVec.toNat_ofNat]
  omega

/-- R72 under `NIBBLE4`, for a value that passes. -/
theorem bcdDec_nibble4 {v : Half} (h : isBcd .nibble4 v = true) : (bcdDec .nibble4 v).toNat =
    v.toNat % 16 + 10 * (v.toNat / 16 % 16) + 100 * (v.toNat / 256 % 16) + 1000 * (v.toNat / 4096 % 16) := by
  have := (isBcd_nibble4 v).mp h
  simp only [bcdDec, h, if_true, digitFields_nibble4, placeValue, BitVec.toNat_ofNat]
  omega

/-- R10: the two bytes of a value as numbers. -/
theorem highByte_toNat (v : Half) : (highByte v).toNat = v.toNat / 256 := by
  have := v.isLt
  simp [highByte, Nat.shiftRight_eq_div_pow]
  omega

theorem lowByte_toNat (v : Half) : (lowByte v).toNat = v.toNat % 256 := by
  simp [lowByte]

end Sys2Proof.Machine
end

