-- ==== Sys2Proof/Laws/Decode.lean ====
section
/-! SUPPORT. The laws of the request word and of the decoder's parts. -/

namespace Sys2Proof

/-- R54: splitting a word made of a request gives the request. -/
@[simp] theorem Request.ofWord_word (r : Request) : Request.ofWord r.word = r := by
  obtain ⟨op, a0, a1, a2, a3⟩ := r
  simp only [Request.ofWord, Request.word, Request.mk.injEq]
  refine ⟨?_, ?_, ?_, ?_, ?_⟩ <;> · ext i hi; grind

/-- R54: joining the fields of a word gives the word. -/
@[simp] theorem Request.word_ofWord (w : ReqWord) : (Request.ofWord w).word = w := by
  ext i hi
  simp only [Request.word, Request.ofWord]
  grind

@[simp] theorem Op.ofCode_code (o : Op) : Op.ofCode o.code = some o := by cases o <;> decide

theorem Op.ofCode_some {b : Byte} {o : Op} (h : Op.ofCode b = some o) : o.code = b := by
  have := List.find?_some h
  simpa using this

theorem Op.ofCode_none {b : Byte} (h : Op.ofCode b = none) (o : Op) : o.code ≠ b := by
  intro e
  simp [← e] at h

@[simp] theorem lowByte_setWidth (b : Byte) : lowByte (b.setWidth 16) = b := by
  ext i hi
  simp only [lowByte]
  grind

@[simp] theorem Instr.request_op (i : Instr) : i.request.op = i.op.code := by cases i <;> rfl

theorem Instr.op_instr (o : Op) (r : Request) : (o.instr r).op = o := by cases o <;> rfl

/-- R60: what a request decodes to, by its `OP` alone. -/
theorem decodeRequest_known {r : Request} {o : Op} (h : Op.ofCode r.op = some o) : decodeRequest r = .known (o.instr r) := by
  simp [decodeRequest, h]

theorem decodeRequest_illegal {r : Request} (h : Op.ofCode r.op = none) : decodeRequest r = .illegal r.op := by
  simp [decodeRequest, h]

/-- R64: operands fit exactly where there are as many as widths and each is in range. -/
theorem argsFit_length {ws as : List Nat} (h : argsFit ws as = true) : as.length = ws.length := by
  induction ws generalizing as with
  | nil => cases as <;> simp_all [argsFit]
  | cons w ws ih =>
    cases as with
    | nil => simp [argsFit] at h
    | cons a as => simp only [argsFit, Bool.and_eq_true] at h; simp [ih h.2]

end Sys2Proof
end

