-- ==== Sys2Proof/Laws/Memory.lean ====
section
/-! SUPPORT. The laws of the byte arrays: reading after writing, the canonical form kept by every write, the bytes a build leaves. -/

namespace Sys2Proof.Machine

@[simp] theorem Memory.read_nil (a : Nat) : Memory.read [] a = unlistedByte := rfl

theorem Memory.read_insert (m : Memory) (a x : Nat) (v : Byte) :
    Memory.read (Memory.insert m a v) x = if x = a then v else Memory.read m x := by
  induction m with
  | nil => rfl
  | cons c rest ih =>
    obtain ⟨b, w⟩ := c
    unfold Memory.insert
    split
    · simp only [Memory.read]
    · split
      · subst a
        simp only [Memory.read]
        split <;> rfl
      · simp only [Memory.read, ih]
        split <;> split <;> simp_all

theorem Memory.read_erase (m : Memory) (a x : Nat) :
    Memory.read (m.filter (fun c => c.1 != a)) x = if x = a then unlistedByte else Memory.read m x := by
  induction m with
  | nil => simp
  | cons c rest ih =>
    obtain ⟨b, w⟩ := c
    by_cases hb : b = a
    · subst hb
      simp only [List.filter, bne_self_eq_false, ih, Memory.read]
      split <;> simp_all
    · have hne : (b != a) = true := by simpa using hb
      simp only [List.filter, hne, Memory.read, ih]
      split <;> split <;> simp_all

/-- The one fact about a write: the index written reads as the byte written, every other index as before. -/
theorem Memory.read_write (m : Memory) (a x : Nat) (v : Byte) :
    Memory.read (Memory.write m a v) x = if x = a then v else Memory.read m x := by
  unfold Memory.write
  split
  · rw [Memory.read_erase]; simp_all
  · exact Memory.read_insert m a x v

@[simp] theorem memRead_memWrite (i j : Fin 20) (v : Byte) (m : Memory) :
    memRead j (memWrite i v m) = if j = i then v else memRead j m := by
  simp [memRead, memWrite, Memory.read_write, Fin.ext_iff]

theorem Memory.rising_weaken {m : Memory} {lo lo' : Nat} (h : lo' ≤ lo) (hm : Memory.rising lo m = true) :
    Memory.rising lo' m = true := by
  cases m with
  | nil => rfl
  | cons c rest => simp_all [Memory.rising]; omega

theorem Memory.rising_insert {m : Memory} {lo a : Nat} {v : Byte} (hv : v ≠ unlistedByte) (ha : a < 20) (hlo : lo ≤ a)
    (hm : Memory.rising lo m = true) : Memory.rising lo (Memory.insert m a v) = true := by
  induction m generalizing lo with
  | nil => simp [Memory.insert, Memory.rising, *]
  | cons c rest ih =>
    obtain ⟨b, w⟩ := c
    simp only [Memory.rising, Bool.and_eq_true, decide_eq_true_eq] at hm
    obtain ⟨⟨⟨h1, h2⟩, h3⟩, h4⟩ := hm
    unfold Memory.insert
    split
    · simp [Memory.rising, *]
    · split
      · subst a; simp [Memory.rising, *]
      · simp only [Memory.rising, Bool.and_eq_true, decide_eq_true_eq]
        exact ⟨⟨⟨h1, h2⟩, h3⟩, ih (by omega) h4⟩

theorem Memory.rising_erase {m : Memory} {lo a : Nat} (hm : Memory.rising lo m = true) :
    Memory.rising lo (m.filter (fun c => c.1 != a)) = true := by
  induction m generalizing lo with
  | nil => rfl
  | cons c rest ih =>
    obtain ⟨b, w⟩ := c
    simp only [Memory.rising, Bool.and_eq_true, decide_eq_true_eq] at hm
    obtain ⟨⟨⟨h1, h2⟩, h3⟩, h4⟩ := hm
    by_cases hb : b = a
    · subst hb
      simpa [List.filter] using Memory.rising_weaken (by omega) (ih h4)
    · have hne : (b != a) = true := by simpa using hb
      simp only [List.filter, hne, Memory.rising, Bool.and_eq_true, decide_eq_true_eq]
      exact ⟨⟨⟨h1, h2⟩, h3⟩, ih h4⟩

/-- Every write of a byte of the array keeps the canonical form. -/
theorem memWrite_wf {m : Memory} (i : Fin 20) (v : Byte) (hm : Memory.wf m = true) : Memory.wf (memWrite i v m) = true := by
  unfold Memory.wf memWrite Memory.write at *
  split
  · exact Memory.rising_erase hm
  · exact Memory.rising_insert ‹_› i.isLt (Nat.zero_le _) hm

theorem memWrites_wf (ws : List (Fin 20 × Byte)) {m : Memory} (hm : Memory.wf m = true) : Memory.wf (memWrites ws m) = true := by
  induction ws generalizing m with
  | nil => exact hm
  | cons w rest ih => exact ih (memWrite_wf w.1 w.2 hm)

/-- A build keeps the canonical form. -/
theorem buildFrame_wf (rom : TplRom) (c : List Byte) (k : Fin 20) {m : Memory} (hm : Memory.wf m = true) :
    Memory.wf (buildFrame rom c k m) = true :=
  memWrite_wf _ _ (memWrites_wf _ (memWrites_wf _ hm))

/-- An index that no write of a loop names reads as before. -/
theorem memRead_memWrites_of_notMem {ws : List (Fin 20 × Byte)} {i : Fin 20} (h : ∀ w ∈ ws, w.1 ≠ i) (m : Memory) :
    memRead i (memWrites ws m) = memRead i m := by
  induction ws generalizing m with
  | nil => rfl
  | cons w rest ih =>
    have h0 : i ≠ w.1 := fun e => h w (by simp) e.symm
    rw [memWrites, ih (fun w' hw' => h w' (by simp [hw'])), memRead_memWrite, if_neg h0]

/-- Where the writes of a loop name each index at most once, an index they name reads as its byte. -/
theorem memRead_memWrites_of_mem {ws : List (Fin 20 × Byte)} (hn : (ws.map Prod.fst).Nodup) {i : Fin 20} {v : Byte}
    (h : (i, v) ∈ ws) (m : Memory) : memRead i (memWrites ws m) = v := by
  induction ws generalizing m with
  | nil => simp at h
  | cons w rest ih =>
    simp only [List.map_cons, List.nodup_cons] at hn
    rcases List.mem_cons.mp h with rfl | h'
    · rw [memWrites, memRead_memWrites_of_notMem, memRead_memWrite, if_pos rfl]
      intro w hw e
      exact hn.1 (List.mem_map.mpr ⟨w, hw, e⟩)
    · exact ih hn.2 h' _

theorem memRead_templateWrites (rom : TplRom) (m : Memory) (i : Fin 20) :
    memRead i (memWrites ((List.finRange 20).map (fun j => (j, tplByte rom j))) m) = tplByte rom i := by
  refine memRead_memWrites_of_mem ?_ (List.mem_map.mpr ⟨i, List.mem_finRange i, rfl⟩) m
  simp only [List.map_map]
  exact (List.nodup_finRange 20).map (fun _ _ h => h)

theorem zip_fst_sublist {α β : Type} (l : List α) (l' : List β) : List.Sublist ((l.zip l').map Prod.fst) l := by
  induction l generalizing l' with
  | nil => simp
  | cons a l ih =>
    cases l' with
    | nil => simp
    | cons b l' => simpa using (ih l').cons_cons a

theorem memRead_contentWrites (bs : List Byte) (m : Memory) (i : Fin 20) :
    memRead i (memWrites ((List.finRange 20).zip bs) m) = if h : i.val < bs.length then bs[i.val] else memRead i m := by
  split
  next h =>
    refine memRead_memWrites_of_mem ?_ ?_ m
    · exact (List.nodup_finRange 20).sublist (zip_fst_sublist _ _)
    · rw [List.mem_iff_getElem]
      exact ⟨i.val, by simp [h], by simp⟩
  next h =>
    refine memRead_memWrites_of_notMem ?_ m
    rintro ⟨j, v⟩ hw rfl
    obtain ⟨n, hn, he⟩ := List.mem_iff_getElem.mp hw
    simp only [List.length_zip, List.length_finRange] at hn
    simp only [List.getElem_zip, List.getElem_finRange, Prod.mk.injEq] at he
    have hj : n = j.val := by rw [← he.1]; rfl
    exact h (by simpa [hj] using (Nat.lt_min.mp hn).2)

/-- The bytes of a build (R80): content below `k`, the checksum at `k`, template above; nothing of the frame before it. -/
theorem memRead_buildFrame (rom : TplRom) {bs : List Byte} {k : Fin 20} (hc : bs.length = k.val) (m : Memory) (i : Fin 20) :
    memRead i (buildFrame rom bs k m) =
      if h : i.val < bs.length then bs[i.val] else if i = k then csum8 bs k.val else tplByte rom i := by
  have hk : bs.take k.val = bs := by rw [← hc]; exact List.take_length
  simp only [buildFrame, hk, memRead_memWrite, memRead_contentWrites, memRead_templateWrites]
  by_cases hi : i = k
  · subst hi; simp [hc]
  · simp [hi]

@[simp] theorem frameBytes_length (m : Memory) : (frameBytes m).length = 20 := by simp [frameBytes]

@[simp] theorem frameBytes_getElem (m : Memory) (i : Nat) (h : i < (frameBytes m).length) :
    (frameBytes m)[i] = memRead ⟨i, by simpa using h⟩ m := by
  simp [frameBytes]

/-- The content of a build is the first `k` bytes of the frame it leaves. -/
theorem frameBytes_take_buildFrame (rom : TplRom) {bs : List Byte} {k : Fin 20} (hc : bs.length = k.val) (m : Memory) :
    (frameBytes (buildFrame rom bs k m)).take k.val = bs := by
  apply List.ext_getElem
  · simp [hc]
  · intro n h1 h2
    simp only [List.getElem_take, frameBytes_getElem, memRead_buildFrame rom hc]
    simp [h2]

theorem csum8_take (b : List Byte) (k : Nat) : csum8 (b.take k) k = csum8 b k := by simp [csum8, List.take_take]

/-- The checksum of the frame a build leaves is the checksum of its content (R78). -/
theorem csum8_frameBytes_buildFrame (rom : TplRom) {bs : List Byte} {k : Fin 20} (hc : bs.length = k.val) (m : Memory) :
    csum8 (frameBytes (buildFrame rom bs k m)) k.val = csum8 bs k.val := by
  rw [← csum8_take, frameBytes_take_buildFrame rom hc]

/-- The twenty bytes a build leaves, in order (R80). -/
theorem frameBytes_buildFrame (rom : TplRom) {bs : List Byte} {k : Fin 20} (hc : bs.length = k.val) (m : Memory) :
    frameBytes (buildFrame rom bs k m) = bs ++ csum8 bs k.val :: template.drop (k.val + 1) := by
  have ht : template.length = 20 := rfl
  apply List.ext_getElem
  · simp [hc, ht]; omega
  · intro n h1 h2
    have hn : n < 20 := by simpa using h1
    rw [frameBytes_getElem, memRead_buildFrame rom hc, List.getElem_append]
    by_cases hb : n < bs.length
    · rw [dif_pos hb, dif_pos hb]
    · rw [dif_neg hb, dif_neg hb, List.getElem_cons]
      by_cases hk : n = k.val
      · rw [if_pos (Fin.ext hk), dif_pos (by omega)]
      · rw [if_neg (fun e => hk (congrArg Fin.val e)), dif_neg (by omega)]
        simp only [tplByte, List.getElem_drop]
        rw [List.getD_eq_getElem?_getD, List.getElem?_eq_getElem (by rw [ht]; exact hn), Option.getD_some]
        congr 1
        omega

/-- R76: the checksum of the first `n` bytes of `FRAME` as a sum over its indices. -/
theorem csum8_frameBytes_toNat (m : Memory) (n : Nat) :
    (csum8 (frameBytes m) n).toNat = (∑ i : Fin 20, if i.val < n then (memRead i m).toNat else 0) % 256 := by
  have e : (frameBytes m).map BitVec.toNat = List.ofFn (fun i : Fin 20 => (memRead i m).toNat) := by
    simp only [frameBytes, List.map_map, List.ofFn_eq_map]
    rfl
  simp only [csum8, BitVec.toNat_ofNat, List.map_take, e, List.sum_take_ofFn, Finset.sum_filter]
  omega

/-- Two memories that read alike have the same bytes. -/
theorem frameBytes_congr {m m' : Memory} (h : ∀ k, memRead k m = memRead k m') : frameBytes m = frameBytes m' := by
  simp [frameBytes, h]

end Sys2Proof.Machine
end

