-- ==== Sys2Proof/Laws/State.lean ====
section
/-! SUPPORT. One lemma for each field of State after each named update, so that no proof unfolds a record update. -/

namespace Sys2Proof.Machine

@[simp] theorem State.withResult_latch (v : Half) (s : State) : (s.withResult v).latch = s.latch := rfl
@[simp] theorem State.withResult_status_busy (v : Half) (s : State) : (s.withResult v).status.busy = s.status.busy := rfl
@[simp] theorem State.withResult_status_err (v : Half) (s : State) : (s.withResult v).status.err = s.status.err := rfl
@[simp] theorem State.withResult_status_rv (v : Half) (s : State) : (s.withResult v).status.rv = true := rfl
@[simp] theorem State.withResult_status_fv (v : Half) (s : State) : (s.withResult v).status.fv = s.status.fv := rfl
@[simp] theorem State.withResult_status_frv (v : Half) (s : State) : (s.withResult v).status.frv = s.status.frv := rfl
@[simp] theorem State.withResult_status_layout (v : Half) (s : State) : (s.withResult v).status.layout = s.status.layout := rfl
@[simp] theorem State.withResult_result (v : Half) (s : State) : (s.withResult v).result = v := rfl
@[simp] theorem State.withResult_flag (v : Half) (s : State) : (s.withResult v).flag = s.flag := rfl
@[simp] theorem State.withResult_frame (v : Half) (s : State) : (s.withResult v).frame = s.frame := rfl
@[simp] theorem State.withResult_tpl (v : Half) (s : State) : (s.withResult v).tpl = s.tpl := rfl
@[simp] theorem State.withResult_rst (v : Half) (s : State) : (s.withResult v).rst = s.rst := rfl
@[simp] theorem State.withResult_offer (v : Half) (s : State) : (s.withResult v).offer = s.offer := rfl
@[simp] theorem State.withResult_done (v : Half) (s : State) : (s.withResult v).done = s.done := rfl
@[simp] theorem State.withResult_moves (v : Half) (s : State) : (s.withResult v).moves = s.moves := rfl
@[simp] theorem State.withResult_errors (v : Half) (s : State) : (s.withResult v).errors = s.errors := rfl

@[simp] theorem State.withFlag_latch (b : Bool) (s : State) : (s.withFlag b).latch = s.latch := rfl
@[simp] theorem State.withFlag_status_busy (b : Bool) (s : State) : (s.withFlag b).status.busy = s.status.busy := rfl
@[simp] theorem State.withFlag_status_err (b : Bool) (s : State) : (s.withFlag b).status.err = s.status.err := rfl
@[simp] theorem State.withFlag_status_rv (b : Bool) (s : State) : (s.withFlag b).status.rv = s.status.rv := rfl
@[simp] theorem State.withFlag_status_fv (b : Bool) (s : State) : (s.withFlag b).status.fv = true := rfl
@[simp] theorem State.withFlag_status_frv (b : Bool) (s : State) : (s.withFlag b).status.frv = s.status.frv := rfl
@[simp] theorem State.withFlag_status_layout (b : Bool) (s : State) : (s.withFlag b).status.layout = s.status.layout := rfl
@[simp] theorem State.withFlag_result (b : Bool) (s : State) : (s.withFlag b).result = s.result := rfl
@[simp] theorem State.withFlag_flag (b : Bool) (s : State) : (s.withFlag b).flag = b := rfl
@[simp] theorem State.withFlag_frame (b : Bool) (s : State) : (s.withFlag b).frame = s.frame := rfl
@[simp] theorem State.withFlag_tpl (b : Bool) (s : State) : (s.withFlag b).tpl = s.tpl := rfl
@[simp] theorem State.withFlag_rst (b : Bool) (s : State) : (s.withFlag b).rst = s.rst := rfl
@[simp] theorem State.withFlag_offer (b : Bool) (s : State) : (s.withFlag b).offer = s.offer := rfl
@[simp] theorem State.withFlag_done (b : Bool) (s : State) : (s.withFlag b).done = s.done := rfl
@[simp] theorem State.withFlag_moves (b : Bool) (s : State) : (s.withFlag b).moves = s.moves := rfl
@[simp] theorem State.withFlag_errors (b : Bool) (s : State) : (s.withFlag b).errors = s.errors := rfl

@[simp] theorem State.withFrame_latch (m : Memory) (s : State) : (s.withFrame m).latch = s.latch := rfl
@[simp] theorem State.withFrame_status_busy (m : Memory) (s : State) : (s.withFrame m).status.busy = s.status.busy := rfl
@[simp] theorem State.withFrame_status_err (m : Memory) (s : State) : (s.withFrame m).status.err = s.status.err := rfl
@[simp] theorem State.withFrame_status_rv (m : Memory) (s : State) : (s.withFrame m).status.rv = s.status.rv := rfl
@[simp] theorem State.withFrame_status_fv (m : Memory) (s : State) : (s.withFrame m).status.fv = s.status.fv := rfl
@[simp] theorem State.withFrame_status_frv (m : Memory) (s : State) : (s.withFrame m).status.frv = true := rfl
@[simp] theorem State.withFrame_status_layout (m : Memory) (s : State) : (s.withFrame m).status.layout = s.status.layout := rfl
@[simp] theorem State.withFrame_result (m : Memory) (s : State) : (s.withFrame m).result = s.result := rfl
@[simp] theorem State.withFrame_flag (m : Memory) (s : State) : (s.withFrame m).flag = s.flag := rfl
@[simp] theorem State.withFrame_frame (m : Memory) (s : State) : (s.withFrame m).frame = m := rfl
@[simp] theorem State.withFrame_tpl (m : Memory) (s : State) : (s.withFrame m).tpl = s.tpl := rfl
@[simp] theorem State.withFrame_rst (m : Memory) (s : State) : (s.withFrame m).rst = s.rst := rfl
@[simp] theorem State.withFrame_offer (m : Memory) (s : State) : (s.withFrame m).offer = s.offer := rfl
@[simp] theorem State.withFrame_done (m : Memory) (s : State) : (s.withFrame m).done = s.done := rfl
@[simp] theorem State.withFrame_moves (m : Memory) (s : State) : (s.withFrame m).moves = s.moves := rfl
@[simp] theorem State.withFrame_errors (m : Memory) (s : State) : (s.withFrame m).errors = s.errors := rfl

@[simp] theorem State.recordError_latch (e : ErrCode) (s : State) : (s.recordError e).latch = s.latch := rfl
@[simp] theorem State.recordError_status_busy (e : ErrCode) (s : State) : (s.recordError e).status.busy = s.status.busy := rfl
@[simp] theorem State.recordError_status_err (e : ErrCode) (s : State) : (s.recordError e).status.err = s.status.err := rfl
@[simp] theorem State.recordError_status_rv (e : ErrCode) (s : State) : (s.recordError e).status.rv = s.status.rv := rfl
@[simp] theorem State.recordError_status_fv (e : ErrCode) (s : State) : (s.recordError e).status.fv = s.status.fv := rfl
@[simp] theorem State.recordError_status_frv (e : ErrCode) (s : State) : (s.recordError e).status.frv = s.status.frv := rfl
@[simp] theorem State.recordError_status_layout (e : ErrCode) (s : State) : (s.recordError e).status.layout = s.status.layout := rfl
@[simp] theorem State.recordError_result (e : ErrCode) (s : State) : (s.recordError e).result = s.result := rfl
@[simp] theorem State.recordError_flag (e : ErrCode) (s : State) : (s.recordError e).flag = s.flag := rfl
@[simp] theorem State.recordError_frame (e : ErrCode) (s : State) : (s.recordError e).frame = s.frame := rfl
@[simp] theorem State.recordError_tpl (e : ErrCode) (s : State) : (s.recordError e).tpl = s.tpl := rfl
@[simp] theorem State.recordError_rst (e : ErrCode) (s : State) : (s.recordError e).rst = s.rst := rfl
@[simp] theorem State.recordError_offer (e : ErrCode) (s : State) : (s.recordError e).offer = s.offer := rfl
@[simp] theorem State.recordError_done (e : ErrCode) (s : State) : (s.recordError e).done = s.done := rfl
@[simp] theorem State.recordError_moves (e : ErrCode) (s : State) : (s.recordError e).moves = s.moves := rfl
@[simp] theorem State.recordError_errors (e : ErrCode) (s : State) : (s.recordError e).errors = s.errors ++ [e] := rfl

@[simp] theorem State.retire_latch (e : ErrCode) (s : State) : (s.retire e).latch = none := rfl
@[simp] theorem State.retire_status_busy (e : ErrCode) (s : State) : (s.retire e).status.busy = false := rfl
@[simp] theorem State.retire_status_err (e : ErrCode) (s : State) : (s.retire e).status.err = e := rfl
@[simp] theorem State.retire_status_rv (e : ErrCode) (s : State) : (s.retire e).status.rv = s.status.rv := rfl
@[simp] theorem State.retire_status_fv (e : ErrCode) (s : State) : (s.retire e).status.fv = s.status.fv := rfl
@[simp] theorem State.retire_status_frv (e : ErrCode) (s : State) : (s.retire e).status.frv = s.status.frv := rfl
@[simp] theorem State.retire_status_layout (e : ErrCode) (s : State) : (s.retire e).status.layout = s.status.layout := rfl
@[simp] theorem State.retire_result (e : ErrCode) (s : State) : (s.retire e).result = s.result := rfl
@[simp] theorem State.retire_flag (e : ErrCode) (s : State) : (s.retire e).flag = s.flag := rfl
@[simp] theorem State.retire_frame (e : ErrCode) (s : State) : (s.retire e).frame = s.frame := rfl
@[simp] theorem State.retire_tpl (e : ErrCode) (s : State) : (s.retire e).tpl = s.tpl := rfl
@[simp] theorem State.retire_rst (e : ErrCode) (s : State) : (s.retire e).rst = s.rst := rfl
@[simp] theorem State.retire_offer (e : ErrCode) (s : State) : (s.retire e).offer = s.offer := rfl
@[simp] theorem State.retire_done (e : ErrCode) (s : State) : (s.retire e).done = true := rfl
@[simp] theorem State.retire_moves (e : ErrCode) (s : State) : (s.retire e).moves = s.moves := rfl
@[simp] theorem State.retire_errors (e : ErrCode) (s : State) : (s.retire e).errors = s.errors := rfl

@[simp] theorem reported_latch (s : State) : (reported s).latch = s.latch := rfl
@[simp] theorem reported_status_busy (s : State) : (reported s).status.busy = s.status.busy := rfl
@[simp] theorem reported_status_err (s : State) : (reported s).status.err = s.status.err := rfl
@[simp] theorem reported_status_rv (s : State) : (reported s).status.rv = s.status.rv := rfl
@[simp] theorem reported_status_fv (s : State) : (reported s).status.fv = s.status.fv := rfl
@[simp] theorem reported_status_frv (s : State) : (reported s).status.frv = s.status.frv := rfl
@[simp] theorem reported_status_layout (s : State) : (reported s).status.layout = s.status.layout := rfl
@[simp] theorem reported_result (s : State) : (reported s).result = s.result := rfl
@[simp] theorem reported_flag (s : State) : (reported s).flag = s.flag := rfl
@[simp] theorem reported_frame (s : State) : (reported s).frame = s.frame := rfl
@[simp] theorem reported_tpl (s : State) : (reported s).tpl = s.tpl := rfl
@[simp] theorem reported_rst (s : State) : (reported s).rst = s.rst := rfl
@[simp] theorem reported_offer (s : State) : (reported s).offer = s.offer := rfl
@[simp] theorem reported_done (s : State) : (reported s).done = false := rfl
@[simp] theorem reported_moves (s : State) : (reported s).moves = s.moves := rfl
@[simp] theorem reported_errors (s : State) : (reported s).errors = s.errors := rfl

@[simp] theorem nextTurn_latch (s : State) : (nextTurn s).latch = s.latch := rfl
@[simp] theorem nextTurn_status_busy (s : State) : (nextTurn s).status.busy = s.status.busy := rfl
@[simp] theorem nextTurn_status_err (s : State) : (nextTurn s).status.err = s.status.err := rfl
@[simp] theorem nextTurn_status_rv (s : State) : (nextTurn s).status.rv = s.status.rv := rfl
@[simp] theorem nextTurn_status_fv (s : State) : (nextTurn s).status.fv = s.status.fv := rfl
@[simp] theorem nextTurn_status_frv (s : State) : (nextTurn s).status.frv = s.status.frv := rfl
@[simp] theorem nextTurn_status_layout (s : State) : (nextTurn s).status.layout = s.status.layout := rfl
@[simp] theorem nextTurn_result (s : State) : (nextTurn s).result = s.result := rfl
@[simp] theorem nextTurn_flag (s : State) : (nextTurn s).flag = s.flag := rfl
@[simp] theorem nextTurn_frame (s : State) : (nextTurn s).frame = s.frame := rfl
@[simp] theorem nextTurn_tpl (s : State) : (nextTurn s).tpl = s.tpl := rfl
@[simp] theorem nextTurn_rst (s : State) : (nextTurn s).rst = s.rst := rfl
@[simp] theorem nextTurn_offer (s : State) : (nextTurn s).offer = s.offer := rfl
@[simp] theorem nextTurn_done (s : State) : (nextTurn s).done = false := rfl
@[simp] theorem nextTurn_moves (s : State) : (nextTurn s).moves = s.moves.tail := rfl
@[simp] theorem nextTurn_errors (s : State) : (nextTurn s).errors = s.errors := rfl

@[simp] theorem accept_latch (w : ReqWord) (s : State) : (accept w s).latch = some (Request.ofWord w) := rfl
@[simp] theorem accept_status_busy (w : ReqWord) (s : State) : (accept w s).status.busy = true := rfl
@[simp] theorem accept_status_err (w : ReqWord) (s : State) : (accept w s).status.err = s.status.err := rfl
@[simp] theorem accept_status_rv (w : ReqWord) (s : State) : (accept w s).status.rv = s.status.rv := rfl
@[simp] theorem accept_status_fv (w : ReqWord) (s : State) : (accept w s).status.fv = s.status.fv := rfl
@[simp] theorem accept_status_frv (w : ReqWord) (s : State) : (accept w s).status.frv = s.status.frv := rfl
@[simp] theorem accept_status_layout (w : ReqWord) (s : State) : (accept w s).status.layout = s.status.layout := rfl
@[simp] theorem accept_result (w : ReqWord) (s : State) : (accept w s).result = s.result := rfl
@[simp] theorem accept_flag (w : ReqWord) (s : State) : (accept w s).flag = s.flag := rfl
@[simp] theorem accept_frame (w : ReqWord) (s : State) : (accept w s).frame = s.frame := rfl
@[simp] theorem accept_tpl (w : ReqWord) (s : State) : (accept w s).tpl = s.tpl := rfl
@[simp] theorem accept_rst (w : ReqWord) (s : State) : (accept w s).rst = s.rst := rfl
@[simp] theorem accept_offer (w : ReqWord) (s : State) : (accept w s).offer = none := rfl
@[simp] theorem accept_done (w : ReqWord) (s : State) : (accept w s).done = s.done := rfl
@[simp] theorem accept_moves (w : ReqWord) (s : State) : (accept w s).moves = s.moves := rfl
@[simp] theorem accept_errors (w : ReqWord) (s : State) : (accept w s).errors = s.errors := rfl

@[simp] theorem resetBlock_latch (s : State) : (resetBlock s).latch = none := rfl
@[simp] theorem resetBlock_status_busy (s : State) : (resetBlock s).status.busy = false := rfl
@[simp] theorem resetBlock_status_err (s : State) : (resetBlock s).status.err = .ok := rfl
@[simp] theorem resetBlock_status_rv (s : State) : (resetBlock s).status.rv = false := rfl
@[simp] theorem resetBlock_status_fv (s : State) : (resetBlock s).status.fv = false := rfl
@[simp] theorem resetBlock_status_frv (s : State) : (resetBlock s).status.frv = false := rfl
@[simp] theorem resetBlock_status_layout (s : State) : (resetBlock s).status.layout = s.status.layout := rfl
@[simp] theorem resetBlock_result (s : State) : (resetBlock s).result = 0#16 := rfl
@[simp] theorem resetBlock_flag (s : State) : (resetBlock s).flag = false := rfl
@[simp] theorem resetBlock_frame (s : State) : (resetBlock s).frame = [] := rfl
@[simp] theorem resetBlock_tpl (s : State) : (resetBlock s).tpl = s.tpl := rfl
@[simp] theorem resetBlock_rst (s : State) : (resetBlock s).rst = s.rst := rfl
@[simp] theorem resetBlock_offer (s : State) : (resetBlock s).offer = s.offer := rfl
@[simp] theorem resetBlock_done (s : State) : (resetBlock s).done = false := rfl
@[simp] theorem resetBlock_moves (s : State) : (resetBlock s).moves = s.moves := rfl
@[simp] theorem resetBlock_errors (s : State) : (resetBlock s).errors = s.errors := rfl

end Sys2Proof.Machine
end

