-- ==== Sys2Proof/Laws/Ops.lean ====
section
/-! SUPPORT. What the operations can do, said once: every operation answers a next state, of one of four forms. -/

namespace Sys2Proof.Machine

/-- What a builder hands to `Build` (R80, R81): `k` content bytes that begin with a build's opcode and the length `k - 2`. -/
structure IsContent (bs : List Byte) (k : Fin 20) : Prop where
  length : bs.length = k.val
  lower : 3 ≤ k.val
  upper : k.val ≤ 17
  opcode : bs.getD 0 0#8 ∈ [0x01#8, 0x23#8, 0x24#8, 0x26#8, 0x30#8, 0x41#8]
  lenByte : k.val = 2 + (bs.getD 1 0#8).toNat

/-- The content of each build and its checksum index (R82 to R87); for the other operations no content. -/
def contentOf : Instr → List Byte × Fin 20
  | .frmSetup => ([0x01#8, 0x01#8, 0x0A#8], 3)
  | .frmSetProf p a => ([0x23#8, 0x02#8, p, a], 4)
  | .frmRepProf p a h l => ([0x24#8, 0x06#8, p, a, highByte h, lowByte h, highByte l, lowByte l], 8)
  | .frmUnkA => ([0x26#8, 0x05#8, 0x0C#8, 0x0C#8, 0x5A#8, 0x03#8, 0x0F#8], 7)
  | .frmTemp t0 t1 t2 t3 =>
      ([0x30#8, 0x0F#8, 0x5A#8, 0x0C#8, 0x00#8, highByte (bcdEnc t0), lowByte (bcdEnc t0), highByte (bcdEnc t1), lowByte (bcdEnc t1),
        highByte (bcdEnc t2), lowByte (bcdEnc t2), highByte (bcdEnc t3), lowByte (bcdEnc t3), 0xFF#8, 0xFF#8, 0xFF#8, 0xFF#8], 17)
  | .frmUnkB => ([0x41#8, 0x02#8, 0x31#8, 0x11#8], 4)
  | .bcdEnc _ => ([], 0)
  | .bcdChk _ => ([], 0)
  | .bcdDec _ => ([], 0)
  | .csum _ => ([], 0)

/-- The six builds. -/
def isBuild : Instr → Bool
  | .frmSetup | .frmSetProf _ _ | .frmRepProf _ _ _ _ | .frmUnkA | .frmTemp _ _ _ _ | .frmUnkB => true
  | .bcdEnc _ | .bcdChk _ | .bcdDec _ | .csum _ => false

/-- A build commits the frame of its content (R80). -/
theorem exec_build {i : Instr} (h : isBuild i = true) (s : State) :
    exec i s = .next ((s.withFrame (buildFrame s.tpl (contentOf i).1 (contentOf i).2 s.frame)).retire .ok) := by
  cases i <;> first | rfl | simp [isBuild] at h

theorem isContent_contentOf {i : Instr} (h : isBuild i = true) : IsContent (contentOf i).1 (contentOf i).2 := by
  cases i <;> first | (simp [isBuild] at h; done) | constructor <;> simp [contentOf]

/-- `CSUM` that raises no error (R77). -/
theorem execCsum_ok {n : Half} {s : State} (hn : n.toNat ≤ 20) (hf : s.status.frv = true) :
    exec (.csum n) s = .next ((s.withResult ((csum8 (frameBytes s.frame) n.toNat).setWidth 16)).retire .ok) := by
  simp [exec, execCsum, csumError, Nat.not_lt.mpr hn, hf, commitResult]

/-- `CSUM` of too large a count (R94, R97). -/
theorem execCsum_badCount {n : Half} (s : State) (hn : 20 < n.toNat) :
    exec (.csum n) s = .next ((s.recordError .badCount).retire .badCount) := by
  simp [exec, execCsum, csumError, hn, raise]

/-- `CSUM` without a frame (R95). -/
theorem execCsum_frameInvalid {n : Half} {s : State} (hn : n.toNat ≤ 20) (hf : s.status.frv = false) :
    exec (.csum n) s = .next ((s.recordError .frameInvalid).retire .frameInvalid) := by
  simp [exec, execCsum, csumError, Nat.not_lt.mpr hn, hf, raise]

/-- The forms of a completion (R25, R96). -/
inductive Completion (s : State) : State → Prop where
  | result (v : Half) : Completion s ((s.withResult v).retire .ok)
  | flag (b : Bool) : Completion s ((s.withFlag b).retire .ok)
  | frame {bs : List Byte} {k : Fin 20} (h : IsContent bs k) :
      Completion s ((s.withFrame (buildFrame s.tpl bs k s.frame)).retire .ok)
  | error {e : ErrCode} (h : e ≠ .ok) : Completion s ((s.recordError e).retire e)

/-- Every operation completes, in every state (R31, R92). -/
theorem exec_completes (i : Instr) (s : State) : ∃ t, exec i s = .next t ∧ Completion s t := by
  cases hb : isBuild i with
  | true => exact ⟨_, exec_build hb s, .frame (isContent_contentOf hb)⟩
  | false =>
    cases i with
    | bcdEnc v => exact ⟨_, rfl, .result _⟩
    | bcdChk v => exact ⟨_, rfl, .flag _⟩
    | bcdDec v => exact ⟨_, rfl, .result _⟩
    | csum n =>
      by_cases hn : n.toNat ≤ 20
      · cases hf : s.status.frv with
        | true => exact ⟨_, execCsum_ok hn hf, .result _⟩
        | false => exact ⟨_, execCsum_frameInvalid hn hf, .error (by decide)⟩
      · exact ⟨_, execCsum_badCount s (by omega), .error (by decide)⟩
    | _ => simp [isBuild] at hb

/-- Every request completes, an illegal one with its error (R68, R93). -/
theorem runRequest_completes (r : Request) (s : State) : ∃ t, runRequest r s = .next t ∧ Completion s t := by
  unfold runRequest
  split
  · exact exec_completes _ s
  · exact ⟨_, rfl, .error (by decide)⟩

end Sys2Proof.Machine
end

