-- ==== Sys2Proof/Laws/Outputs.lean ====
section
/-! SUPPORT. The packing of bytes into the `frame` output, in plain arithmetic (10_state.md R32). -/

namespace Sys2Proof.Machine

theorem packBytes_lt (bs : List Byte) : packBytes bs < 256 ^ bs.length := by
  induction bs with
  | nil => simp [packBytes]
  | cons b rest ih =>
    simp only [packBytes, List.length_cons, Nat.pow_succ]
    have := b.isLt
    nlinarith

/-- Byte `i` of the list stands `length - 1 - i` places of 256 up. -/
theorem packBytes_div (bs : List Byte) (i : Nat) (h : i < bs.length) :
    packBytes bs / 256 ^ (bs.length - 1 - i) % 256 = (bs[i]).toNat := by
  induction bs generalizing i with
  | nil => simp at h
  | cons b rest ih =>
    cases i with
    | zero =>
      simp only [packBytes, List.length_cons, Nat.add_sub_cancel, Nat.sub_zero, List.getElem_cons_zero]
      rw [Nat.mul_comm, Nat.mul_add_div (by positivity), Nat.div_eq_of_lt (packBytes_lt rest)]
      have := b.isLt
      omega
    | succ i =>
      simp only [List.length_cons] at h
      simp only [packBytes, List.length_cons, List.getElem_cons_succ]
      have e : rest.length + 1 - 1 - (i + 1) = rest.length - 1 - i := by omega
      rw [e, ← ih i (by omega)]
      have e2 : (256 : Nat) ^ rest.length = 256 ^ (rest.length - 1 - i) * (256 * 256 ^ i) := by
        rw [← Nat.pow_succ', ← Nat.pow_add]
        congr 1
        omega
      rw [e2, show b.toNat * (256 ^ (rest.length - 1 - i) * (256 * 256 ^ i)) =
          256 ^ (rest.length - 1 - i) * (256 * (256 ^ i * b.toNat)) by ring,
        Nat.mul_add_div (by positivity), Nat.mul_add_mod]

end Sys2Proof.Machine
end

