-- ==== Sys2Proof/Laws/PerInstr.lean ====
section
/-! SUPPORT. The family OpField, one lemma for each operation: the word of an instruction holds its row's `OP` value in bits 71:64 (R54,
R58), so that no two rows share a word. -/

namespace Sys2Proof.Laws.OpField

def Statement (i : Instr) : Prop := (encode i).extractLsb' 64 8 = i.op.code

theorem of_request {i : Instr} (h : i.request.op = i.op.code) : Statement i := by
  have := congrArg Request.op (Request.ofWord_word i.request)
  exact this.trans h

theorem frmSetup : Statement .frmSetup := of_request rfl
theorem frmSetProf (p a : Byte) : Statement (.frmSetProf p a) := of_request rfl
theorem frmRepProf (p a : Byte) (h l : Half) : Statement (.frmRepProf p a h l) := of_request rfl
theorem frmUnkA : Statement .frmUnkA := of_request rfl
theorem frmTemp (t0 t1 t2 t3 : Half) : Statement (.frmTemp t0 t1 t2 t3) := of_request rfl
theorem frmUnkB : Statement .frmUnkB := of_request rfl
theorem bcdEnc (v : Half) : Statement (.bcdEnc v) := of_request rfl
theorem bcdChk (v : Half) : Statement (.bcdChk v) := of_request rfl
theorem bcdDec (v : Half) : Statement (.bcdDec v) := of_request rfl
theorem csum (n : Half) : Statement (.csum n) := of_request rfl

end Sys2Proof.Laws.OpField
end

