-- ==== Sys2Proof/Laws/Step.lean ====
section
/-! SUPPORT. What a step can do, said once: acceptance, a turn of the block, or a move of the host. -/

namespace Sys2Proof.Machine

/-- The next states of a step, with what each needs. -/
inductive StepTo (s : State) : State → Prop where
  /-- acceptance (R30) -/
  | accept {w : ReqWord} (ho : s.offer = some w) (hr : reqReady s = true) : StepTo s (accept w (reported s))
  /-- the block under `rst` (R111) -/
  | held (hr : s.rst = true) (hb : blockToAct s = true) : StepTo s (resetBlock (nextTurn s))
  /-- the request in flight completes (R31) -/
  | complete {r : Request} {t : State} (hr : s.rst = false) (hb : blockToAct s = true) (hl : s.latch = some r)
      (h : runRequest r (nextTurn s) = .next t) (hc : Completion (nextTurn s) t) : StepTo s t
  /-- the block idle (R108) -/
  | idle (hr : s.rst = false) (hb : blockToAct s = true) (hl : s.latch = none) : StepTo s (nextTurn s)
  /-- the host moves the request on offer (R30) -/
  | offered {w : ReqWord} {ms : List HostMove} (hm : s.moves = .offer w :: ms) (o : Option ReqWord) (ho : o = some w) :
      StepTo s { nextTurn s with offer := o }
  | withdrawn {ms : List HostMove} (hm : s.moves = .withdraw :: ms) : StepTo s { nextTurn s with offer := none }
  /-- `rst` rises (R112) -/
  | rises {ms : List HostMove} (hm : s.moves = .assertRst :: ms) : StepTo s (resetBlock { nextTurn s with rst := true })
  /-- `rst` falls (R111), or was low -/
  | falls {ms : List HostMove} (hm : s.moves = .releaseRst :: ms) (hr : s.rst = true) :
      StepTo s (resetBlock { nextTurn s with rst := false })
  | low {ms : List HostMove} (hm : s.moves = .releaseRst :: ms) (hr : s.rst = false) : StepTo s (nextTurn s)
  /-- a read of an output (R43) -/
  | reads {o : Output} {ms : List HostMove} (hm : s.moves = .read o :: ms) : StepTo s (nextTurn s)

/-- A step that accepts (R30). -/
theorem step_accept {s : State} {w : ReqWord} (ho : s.offer = some w) (hr : reqReady s = true) :
    step s = .next (accept w (reported s)) := by simp [step, cycle, ho, hr]

/-- A step that does not accept is a turn. -/
theorem step_turn {s : State} (h : s.offer = none ∨ reqReady s = false) : step s = takeTurn s := by
  unfold step cycle
  split
  · rcases h with h | h <;> simp_all
  · rfl

theorem takeTurn_block {s : State} (h : blockToAct s = true) : takeTurn s = blockTurn (nextTurn s) := by
  unfold blockToAct at h
  unfold takeTurn
  split <;> simp_all

theorem takeTurn_host {s : State} {m : HostMove} {ms : List HostMove} (h : s.moves = m :: ms) (hm : m ≠ .wait) :
    takeTurn s = hostMove m (nextTurn s) := by
  unfold takeTurn
  rw [h]
  cases m <;> simp_all

theorem hostRead_next {o : Output} {s t : State} (h : hostRead o s = .next t) : t = s := by
  cases o <;> simp only [hostRead] at h <;> (try split at h) <;> first | (cases h; rfl) | cases h

/-- Whether a read finds a value depends on `STATUS` alone (R26). -/
theorem hostRead_of_status {o : Output} {s s' : State} (hs : s'.status = s.status) (h : hostRead o s = .next s) :
    hostRead o s' = .next s' := by
  cases o <;> simp only [hostRead, hs] at h ⊢ <;> (split at h <;> simp_all)

/-- A run goes on from the state a step leaves. -/
theorem run_succ_of_next {s t : State} (h : step s = .next t) (k : Nat) :
    Host.Core.run Sys2Proof.core (k + 1) s = Host.Core.run Sys2Proof.core k t := by
  have : Sys2Proof.core.step s = .next t := h
  simp only [Host.Core.run, this]

/-- The inversion of a step. -/
theorem step_cases {s t : State} (h : step s = .next t) : StepTo s t := by
  by_cases ha : ∃ w, s.offer = some w ∧ reqReady s = true
  · obtain ⟨w, ho, hr⟩ := ha
    rw [step_accept ho hr] at h
    cases h
    exact .accept ho hr
  · have hn : s.offer = none ∨ reqReady s = false := by
      cases ho : s.offer with
      | none => exact .inl rfl
      | some w => exact .inr (by simpa using fun e => ha ⟨w, ho, e⟩)
    rw [step_turn hn] at h
    cases hb : blockToAct s with
    | true =>
      rw [takeTurn_block hb] at h
      unfold blockTurn at h
      split at h
      · cases h; exact .held ‹_› hb
      · have hr : s.rst = false := by simpa using ‹¬(nextTurn s).rst = true›
        split at h
        · next r hl =>
          obtain ⟨u, hu, hc⟩ := runRequest_completes r (nextTurn s)
          obtain rfl : u = t := by rw [hu] at h; cases h; rfl
          exact .complete hr hb hl hu hc
        · next hl => cases h; exact .idle hr hb hl
    | false =>
      cases hm : s.moves with
      | nil => simp [blockToAct, hm] at hb
      | cons m ms =>
        have hw : m ≠ .wait := by rintro rfl; simp [blockToAct, hm] at hb
        rw [takeTurn_host hm hw] at h
        cases m with
        | offer w =>
          simp only [hostMove, hostOffer, nextTurn_offer] at h
          split at h
          · cases h; exact .offered hm _ rfl
          · next w' ho =>
            split at h
            · next e => cases h; subst e; simpa [nextTurn, reported, ho] using StepTo.offered hm (some w') rfl
            · cases h
        | withdraw => cases h; exact .withdrawn hm
        | assertRst => cases h; exact .rises hm
        | releaseRst =>
          cases hr : s.rst with
          | true =>
            simp only [hostMove, nextTurn_rst, hr, if_true] at h
            cases h
            exact .falls hm hr
          | false =>
            simp only [hostMove, nextTurn_rst, hr, Bool.false_eq_true, if_false] at h
            cases h
            exact .low hm hr
        | read o =>
          have := hostRead_next h
          subst this
          exact .reads hm
        | wait => exact absurd rfl hw

/-- The block's turn with a request in flight (R31, R68). -/
theorem step_runs {s : State} {r : Request} (hl : s.latch = some r) (hbusy : s.status.busy = true) (hr : s.rst = false)
    (hb : blockToAct s = true) : step s = runRequest r (nextTurn s) := by
  rw [step_turn (.inr (by simp [reqReady, hbusy])), takeTurn_block hb]
  simp [blockTurn, hr, hl]

end Sys2Proof.Machine
end

