-- ==== Sys2Proof/Tests/Slice0.lean ====
section
/-! SUPPORT. Tests: the assembler's checks, decoding of words written out from the spec's encodings, one or two steps' worth of each
operation from the vectors of 95_test_vectors.md, and a witness for the hypotheses of each statement. Expected values are the spec's. -/

open Sys2Proof Sys2Proof.Machine

namespace Sys2Proof.Tests

/-- The state right after reset with layout `l` and a request in flight. -/
def inFlight (l : Layout) (w : ReqWord) : State :=
  { State.resetWith l with latch := some (Request.ofWord w), status := { Status.atReset l with busy := true } }

/-- The state that one operation leaves, from `s` (a state that stops is left as it is). -/
def after (s : State) (i : Instr) : State := (nextState? (exec i s)).getD s

/-- The SETUP frame built from reset. -/
def setupBuilt : State := after State.reset .frmSetup

/-- The frame an operation leaves, from reset. -/
def frameOf (i : Instr) : FrameWord := packFrame (after State.reset i).frame

/-! ### WellFormed: lines the assembler refuses (R64) -/

theorem test_wf_refuses_probe_256 : AsmLine.wf ⟨.frmSetProf, [256, 0]⟩ = false := by decide
theorem test_wf_refuses_alarm_256 : AsmLine.wf ⟨.frmRepProf, [1, 256, 0, 0]⟩ = false := by decide
theorem test_wf_refuses_value_65536 : AsmLine.wf ⟨.bcdEnc, [65536]⟩ = false := by decide
theorem test_wf_refuses_missing_operand : AsmLine.wf ⟨.frmTemp, [1, 2, 3]⟩ = false := by decide
theorem test_wf_refuses_extra_operand : AsmLine.wf ⟨.frmSetup, [0]⟩ = false := by decide
theorem test_wf_takes_255_and_65535 : AsmLine.wf ⟨.frmRepProf, [255, 255, 65535, 65535]⟩ = true := by decide

/-! ### Assembly text (R64, R65; the lines of 95_test_vectors.md) -/

theorem test_text_repprof : assembleLine "FRM.REPPROF 1, 0, 0xFFFF, 0xFFFF".toList = some [0x2400010000FFFFFFFF#72] := by decide
theorem test_text_program_P1 :
    assembleLines ["FRM.TEMP 4321, 1234, 123, 3210     ; 30 10E1 04D2 007B 0C8A".toList, "; host copies FRAME".toList, "CSUM 17".toList]
      = some [0x3010E104D2007B0C8A#72, 0x830011000000000000#72] := by decide
theorem test_text_refuses_unknown_mnemonic : assembleLine "FRM.NONE".toList = none := by decide
theorem test_text_refuses_out_of_range : assembleLine "FRM.SETPROF 256, 0".toList = none := by decide

/-! ### Decoding: words written out field by field from the spec's encodings (R54, R55, spec/opcode_table.json) -/

theorem test_decode_setup : decode (0b00000001#8 ++ 0xFFFF#16 ++ 0xFFFF#16 ++ 0xFFFF#16 ++ 0xFFFF#16) = .known .frmSetup := by decide
theorem test_decode_setprof : decode (0b00100011#8 ++ 0xAB#8 ++ 0x01#8 ++ 0xCD#8 ++ 0x02#8 ++ 0x0000#16 ++ 0x0000#16)
    = .known (.frmSetProf 0x01 0x02) := by decide
theorem test_decode_repprof : decode (0b00100100#8 ++ 0x00#8 ++ 0x06#8 ++ 0x00#8 ++ 0xFF#8 ++ 0x9998#16 ++ 0x1234#16)
    = .known (.frmRepProf 0x06 0xFF 0x9998 0x1234) := by decide
theorem test_decode_unka : decode (0b00100110#8 ++ 0#64) = .known .frmUnkA := by decide
theorem test_decode_temp : decode (0b00110000#8 ++ 0x10E1#16 ++ 0x04D2#16 ++ 0x007B#16 ++ 0x0C8A#16)
    = .known (.frmTemp 4321 1234 123 3210) := by decide
theorem test_decode_unkb : decode (0b01000001#8 ++ 0#64) = .known .frmUnkB := by decide
theorem test_decode_enc : decode (0b10000000#8 ++ 0xFFFE#16 ++ 0x1111#16 ++ 0x2222#16 ++ 0x3333#16) = .known (.bcdEnc 0xFFFE) := by decide
theorem test_decode_chk : decode (0b10000001#8 ++ 0x0905#16 ++ 0#48) = .known (.bcdChk 0x0905) := by decide
theorem test_decode_dec : decode (0b10000010#8 ++ 0x1234#16 ++ 0#48) = .known (.bcdDec 0x1234) := by decide
theorem test_decode_csum : decode (0b10000011#8 ++ 0x0014#16 ++ 0#48) = .known (.csum 20) := by decide
theorem test_decode_illegal_99 : decode 0x990000000000000000#72 = .illegal 0x99 := by decide
theorem test_table_word : decodeTableWord 72 0x230003000200000000 = some (.frmSetProf 3 2) := by decide

/-- The rows of the opcode map do not overlap (R58). -/
theorem test_op_codes_differ : (Op.all.map Op.code).Nodup := by decide

/-! ### Operations (95_test_vectors.md V1 to V5) -/

theorem test_enc_12345 : (after State.reset (.bcdEnc 12345)).result = 0x2345#16 := by decide
theorem test_enc_65535 : (after State.reset (.bcdEnc 65535)).result = 0x5535#16 := by decide
theorem test_chk_byte8_0905_1234 : (after State.reset (.bcdChk 0x0905)).flag = true ∧ (after State.reset (.bcdChk 0x1234)).flag = false := by
  decide
theorem test_chk_nibble4_1234_fafa : (after (State.resetWith .nibble4) (.bcdChk 0x1234)).flag = true ∧
    (after (State.resetWith .nibble4) (.bcdChk 0xFAFA)).flag = false := by decide
theorem test_dec_byte8_0905_0010 : (after State.reset (.bcdDec 0x0905)).result = 0x005F#16 ∧
    (after State.reset (.bcdDec 0x0010)).result = 0xFFFF#16 := by decide
theorem test_dec_nibble4_0905 : (after (State.resetWith .nibble4) (.bcdDec 0x0905)).result = 0x0389#16 := by decide
theorem test_csum_setup_20 : (after setupBuilt (.csum 20)).result = 0x0012#16 := by decide
theorem test_csum_21_before_frame_check : (after State.reset (.csum 21)).status.err = .badCount := by decide
theorem test_setup_frame : frameOf .frmSetup = 0x01010A0C445566778899AABBCCDDEEFF17181920#160 := by decide
theorem test_setprof_wraps : frameOf (.frmSetProf 255 255) = 0x2302FFFF235566778899AABBCCDDEEFF17181920#160 := by decide
theorem test_repprof_frame : frameOf (.frmRepProf 6 255 0x9999 0x0000) = 0x240606FF999900006199AABBCCDDEEFF17181920#160 := by decide
theorem test_unka_frame : frameOf .frmUnkA = 0x26050C0C5A030FAF8899AABBCCDDEEFF17181920#160 := by decide
theorem test_temp_fixture : frameOf (.frmTemp 4321 1234 123 3210) = 0x300F5A0C0043211234012332_10FFFFFFFFB11920#160 := by decide
theorem test_temp_high_digits : frameOf (.frmTemp 65535 10000 12345 200) = 0x300F5A0C0055350000234502_00FFFFFFFF951920#160 := by decide
theorem test_unkb_frame : frameOf .frmUnkB = 0x41023111855566778899AABBCCDDEEFF17181920#160 := by decide

/-! ### Status and reset (95_test_vectors.md V6) -/

theorem test_status_reset : statusOut State.reset = 0x00#8 ∧ statusOut (State.resetWith .nibble4) = 0x80#8 := by decide
theorem test_status_after_setup_chk_enc : statusOut (after (after setupBuilt (.bcdChk 5)) (.bcdEnc 5)) = 0x70#8 := by decide
theorem test_status_illegal : (nextState? (step (inFlight .byte8 0x990000000000000000#72))).map statusOut = some 0x02#8 := by decide
theorem test_status_in_flight : statusOut (inFlight .byte8 0x010000000000000000#72) = 0x01#8 := by decide
theorem test_first_step_after_reset :
    ((nextState? (step (State.reset.withFetchWord 72 0x800001000000000000))).map fun s => s.result) = some 0x0001#16 := by decide

/-! ### Witnesses: a state and operands that meet all hypotheses of the statement named -/

/-- A request offered while the block is ready, and while it is not. -/
def offered : State := { State.reset with offer := some 0x010000000000000000#72 }
def offeredBusy : State := { inFlight .byte8 0x800001000000000000#72 with offer := some 0x010000000000000000#72 }
def inReset : State := { State.reset with rst := true, offer := some 0x010000000000000000#72 }

theorem witness_EncodeOfDecodeClearsOnlyIgnoredBits : decode 0x23AB01CD0212345678#72 = .known (.frmSetProf 1 2) := by decide
theorem witness_DecodingLooksAtTheOpByteAlone :
    (0x83FFFFFFFFFFFFFFFF#72).extractLsb' 64 8 ∈ [0x01#8, 0x23#8, 0x24#8, 0x26#8, 0x30#8, 0x41#8, 0x80#8, 0x81#8, 0x82#8, 0x83#8] ∧
    (0x84FFFFFFFFFFFFFFFF#72).extractLsb' 64 8 ∉ [0x01#8, 0x23#8, 0x24#8, 0x26#8, 0x30#8, 0x41#8, 0x80#8, 0x81#8, 0x82#8, 0x83#8] := by
  decide
theorem witness_IgnoredBitsHaveNoEffect : (0x23AB01CD0212345678#72).extractLsb' 64 8 = Op.frmSetProf.code ∧
    0x23AB01CD0212345678#72 &&& 0xFF00FF00FF00000000#72 = 0x230001000200000000#72 &&& 0xFF00FF00FF00000000#72 := by decide
theorem witness_AssemblerTakesExactlyTheLinesThatFit : AsmLine.assemble ⟨.frmSetProf, [255, 0]⟩ = some 0x2300FF000000000000#72 ∧
    AsmLine.assemble ⟨.frmSetProf, [256, 0]⟩ = none := by decide
theorem witness_CommentsNeverAssemble : ';' ∉ "CSUM 17".toList ∧ assembleLine "CSUM 17".toList = some [0x830011000000000000#72] := by decide

/-- For StepRunsTheRequestInFlight and AcceptedOperationCompletes. -/
theorem witness_StepRunsTheRequestInFlight :
    let s := inFlight .byte8 0x800001000000000000#72
    s.latch = some (Request.ofWord 0x800001000000000000#72) ∧ s.status.busy = true ∧ s.rst = false ∧ blockToAct s = true ∧
      decodeRequest (Request.ofWord 0x800001000000000000#72) = .known (.bcdEnc 1) := by decide
theorem witness_StepRunsAPlacedWord : 0x83FFFFFFFFFFFFFFFF < 2 ^ 72 ∧ decodeTableWord 72 0x83FFFFFFFFFFFFFFFF = some (.csum 0xFFFF) := by decide
theorem witness_IllegalOpCommitsErrAlone :
    let s := inFlight .nibble4 0x250000000000000000#72
    s.latch = some (Request.ofWord 0x250000000000000000#72) ∧ s.status.busy = true ∧ s.rst = false ∧ blockToAct s = true ∧
      (Request.ofWord 0x250000000000000000#72).op ∉ [0x01#8, 0x23#8, 0x24#8, 0x26#8, 0x30#8, 0x41#8, 0x80#8, 0x81#8, 0x82#8, 0x83#8] := by
  decide
theorem witness_ReadyBlockAcceptsTheOfferedRequest :
    offered.offer = some 0x010000000000000000#72 ∧ offered.status.busy = false ∧ offered.rst = false := by decide
theorem witness_RequestOfferedEarlyIsHeld :
    (offeredBusy.offer = some 0x010000000000000000#72 ∧ offeredBusy.status.busy = true ∧ offeredBusy.moves.head? ≠ some .withdraw ∧
      (nextState? (step offeredBusy)).isSome) ∧
    (inReset.rst = true ∧ inReset.moves.head? ≠ some .withdraw ∧ (nextState? (step inReset)).isSome) := by decide
theorem witness_LatchHoldsUntilCompletion : (inFlight .byte8 0x800001000000000000#72).Inv ∧
    (nextState? (step (inFlight .byte8 0x800001000000000000#72))).isSome :=
  ⟨⟨by decide, by decide, by decide, by decide, by decide, by decide, fun h => absurd h (by decide)⟩, by decide⟩
theorem witness_ReadsBeforeCompletionDoNotChangeAnOperation :
    let s := { inFlight .byte8 0x800001000000000000#72 with moves := [.read .status, .read .status] }
    s.latch = some (Request.ofWord 0x800001000000000000#72) ∧ s.status.busy = true ∧ s.rst = false ∧
      (s.moves.all fun m => m = .read .status) ∧ nextState? (hostRead .status s) = some s := by decide
theorem witness_IdleBlockHoldsItsState :
    State.reset.latch = none ∧ State.reset.offer = none ∧ State.reset.rst = false ∧ blockToAct State.reset = true := by decide
theorem witness_EndedRunHoldsItsStateIndefinitely : setupBuilt.RunEnded ∧ setupBuilt.rst = false := ⟨⟨by decide, by decide, by decide⟩, by decide⟩
/-- One witness for each clause: `rst` rising with an operation in flight, held, and falling. -/
theorem witness_ResetIsHeldWhileRstIsHigh :
    ({ inFlight .nibble4 0x800001000000000000#72 with moves := [.assertRst] } : State).offer = none ∧
    (inReset.rst = true ∧ blockToAct inReset = true) ∧
    ({ inReset with moves := [.releaseRst] } : State).moves = [.releaseRst] := by decide
theorem witness_ResetAbandonsTheOperationInFlight :
    let s := { inFlight .byte8 0x010000000000000000#72 with moves := [.assertRst] }
    s.latch = some (Request.ofWord 0x010000000000000000#72) ∧ s.status.busy = true ∧ s.moves = [.assertRst] := by decide
theorem witness_ReadOfAnOutputWithoutValueFaults :
    State.reset.offer = none ∧ State.reset.status.rv = false ∧ State.reset.status.fv = false ∧ State.reset.status.frv = false := by decide
/-- One witness for each output. -/
theorem witness_HostReadHasNoSideEffect : setupBuilt.offer = none ∧ (frameOut setupBuilt).isSome = true ∧
    (resultOut (after setupBuilt (.csum 0))).isSome = true ∧ (flagOut (after setupBuilt (.bcdChk 0))).isSome = true := by decide
theorem witness_ReplacingAnOfferIsNoMove :
    let s := { offeredBusy with moves := [.offer 0x020000000000000000#72] }
    s.offer = some 0x010000000000000000#72 ∧ reqReady s = false ∧ s.moves = [.offer 0x020000000000000000#72] ∧
      (0x020000000000000000#72 : ReqWord) ≠ 0x010000000000000000#72 := by decide
theorem witness_FrameOutputPacksByteZeroMostSignificant : setupBuilt.status.frv = true := by decide

/-- For EveryStepKeepsTheInvariant: a state that meets it and goes on, with a frame built. -/
theorem witness_EveryStepKeepsTheInvariant : setupBuilt.Inv ∧ (nextState? (step setupBuilt)).isSome := by
  refine ⟨⟨by decide, by decide, by decide, by decide, by decide, by decide, fun _ => ⟨by decide, 3, ?_⟩⟩, by decide⟩
  decide
/-- For EveryRunShowsOnlySealedFrames: a run whose host offers `FRM.SETUP` reaches a state with a frame. -/
theorem witness_EveryRunShowsOnlySealedFrames :
    ∃ t, Reaches { State.resetWith .byte8 with moves := [.offer 0x010000000000000000#72] } t ∧ t.status.frv = true := by
  refine ⟨_, .more (.more (.more .here rfl) rfl) rfl, ?_⟩
  decide
/-- For OutputsChangeOnlyAtCompletion: an idle turn; for OnlyResetClearsValidBits too, with each valid bit set. -/
theorem witness_OutputsChangeOnlyAtCompletion :
    let s := after (after setupBuilt (.bcdChk 5)) (.bcdEnc 5)
    s.rst = false ∧ s.moves.head? ≠ some .assertRst ∧ s.moves.head? ≠ some .releaseRst ∧
      (nextState? (step s)).map (fun t => t.done) = some false ∧ s.status.rv = true ∧ s.status.fv = true ∧ s.status.frv = true := by decide
/-- For NoStepChangesLayoutOrTemplate and ErrorRecordGrowsByExactlyTheErrors: a step that completes with an error. -/
theorem witness_ErrorRecordGrowsByExactlyTheErrors :
    (nextState? (step (inFlight .nibble4 0x830015000000000000#72))).map (fun t => t.errors) = some [.badCount] := by decide
theorem witness_NoErrorWithoutCsumOrIllegalOp :
    let s := inFlight .byte8 0x800001000000000000#72
    s.ErrorFree ∧ (∀ r, s.latch = some r → ∃ i, decodeRequest r = .known i ∧ i.op ≠ .csum) ∧ (nextState? (step s)).isSome := by
  refine ⟨rfl, ?_, by decide⟩
  rintro r hr
  obtain rfl : Request.ofWord 0x800001000000000000#72 = r := Option.some.inj hr
  exact ⟨.bcdEnc 1, by decide, by decide⟩
/-- For OnlyCsumCanFail and OperationsDoNotReadEarlierResults: an operation other than `CSUM`, two states of one layout. -/
theorem witness_OperationsDoNotReadEarlierResults : (Instr.bcdDec 0x0905).op ≠ .csum ∧
    State.reset.status.layout = setupBuilt.status.layout ∧
    setupBuilt.status.frv = (after setupBuilt (.bcdEnc 7)).status.frv ∧ setupBuilt.frame = (after setupBuilt (.bcdEnc 7)).frame := by decide
theorem witness_FramesThatReadAlikeAreEqual : Memory.wf setupBuilt.frame = true ∧ Memory.wf [] = true := by decide

/-- For CheckAndDecodeAgree. -/
theorem witness_CheckAndDecodeAgree : (State.resetWith .byte8).status.layout = .byte8 ∧ (State.resetWith .nibble4).status.layout = .nibble4 := by
  decide
/-- For BcdEncLanesAndInjectivity: values equal modulo 10000, and values below it. -/
theorem witness_BcdEncLanesAndInjectivity : (12345#16).toNat % 10000 = (2345#16).toNat % 10000 ∧ (9999#16).toNat < 10000 := by decide
/-- For EncodeDecodeRoundTrip at the ends of its clauses: 9999 under `NIBBLE4`; 9, 10 and 100 under `BYTE8` (V1, V2: 0x0100 decodes to 10). -/
theorem witness_EncodeDecodeRoundTrip :
    bcdDec .nibble4 (bcdEnc 9999) = 9999 ∧ bcdDec .byte8 (bcdEnc 9) = 9 ∧ bcdDec .byte8 (bcdEnc 10) = 0xFFFF#16 ∧
      bcdDec .byte8 (bcdEnc 100) = 10 := by decide
/-- For RoundTripAsR75WordsIt: the value that refutes it meets its hypotheses. -/
theorem witness_RoundTripAsR75WordsIt :
    10 ≤ (100#16).toNat ∧ (100#16).toNat < 10000 ∧ State.reset.status.layout = .byte8 ∧ bcdEnc 100#16 = 0x0100#16 := by decide
/-- For BcdChkWritesWhetherEveryFieldIsADigit and BcdDecWritesTheValueOrTheSentinel: both clauses at their bound, 9 and 10. -/
theorem witness_BcdDecWritesTheValueOrTheSentinel : isBcd .byte8 0x0909 = true ∧ isBcd .byte8 0x0A09 = false ∧
    isBcd .nibble4 0x9999 = true ∧ isBcd .nibble4 0x999A = false := by decide
/-- For CsumWritesTheSumOfTheFirstBytes at 20, and CsumErrorsComeInOrder at 21 and 20. -/
theorem witness_CsumWritesTheSumOfTheFirstBytes : (20#16).toNat ≤ 20 ∧ setupBuilt.status.frv = true := by decide
theorem witness_CsumErrorsComeInOrder : 20 < (21#16).toNat ∧ (20#16).toNat ≤ 20 ∧ State.reset.status.frv = false := by decide
/-- For EveryBuildSatisfiesTheChecksumLaw and OpcodeAndLengthByteOfEveryBuild. -/
theorem witness_EveryBuildSatisfiesTheChecksumLaw :
    (Instr.frmTemp 4321 1234 123 3210).op ∈ [Op.frmSetup, .frmSetProf, .frmRepProf, .frmUnkA, .frmTemp, .frmUnkB] := by decide
theorem witness_ChecksumDoesNotCoverLaterBytes : (3 : Fin 20).val ≤ (3 : Fin 20).val ∧ setupBuilt.status.frv = true := by decide

end Sys2Proof.Tests
end

/-! The family `10_state.md`: the state, its invariant, the request latch, the outputs and the write sets. -/

namespace Sys2Proof.Machine

/-! ### What a completion leaves -/

namespace Completion

variable {s t : State}

theorem latch_none (h : Completion s t) : t.latch = none := by cases h <;> rfl
theorem busy_false (h : Completion s t) : t.status.busy = false := by cases h <;> rfl
theorem done_true (h : Completion s t) : t.done = true := by cases h <;> rfl
theorem layout_eq (h : Completion s t) : t.status.layout = s.status.layout := by cases h <;> rfl
theorem tpl_eq (h : Completion s t) : t.tpl = s.tpl := by cases h <;> rfl
theorem rst_eq (h : Completion s t) : t.rst = s.rst := by cases h <;> rfl
theorem offer_eq (h : Completion s t) : t.offer = s.offer := by cases h <;> rfl
theorem moves_eq (h : Completion s t) : t.moves = s.moves := by cases h <;> rfl

theorem rv_mono (h : Completion s t) (hv : s.status.rv = true) : t.status.rv = true := by
  cases h <;> simp [hv]
theorem fv_mono (h : Completion s t) (hv : s.status.fv = true) : t.status.fv = true := by
  cases h <;> simp [hv]
theorem frv_mono (h : Completion s t) (hv : s.status.frv = true) : t.status.frv = true := by
  cases h <;> simp [hv]

end Completion

/-! ### The frame a build leaves is sealed

The bytes of a build by their place (R80): content below the checksum index, the checksum at it, template above. -/

theorem memRead_buildFrame_content (rom : TplRom) {bs : List Byte} {k : Fin 20} (hc : bs.length = k.val) (m : Memory)
    {i : Fin 20} (hi : i.val < k.val) : memRead i (buildFrame rom bs k m) = bs.getD i.val 0#8 := by
  have hlt : i.val < bs.length := hc ▸ hi
  rw [memRead_buildFrame rom hc, dif_pos hlt, List.getD_eq_getElem _ _ hlt]

theorem memRead_buildFrame_checksum (rom : TplRom) {bs : List Byte} {k : Fin 20} (hc : bs.length = k.val) (m : Memory) :
    memRead k (buildFrame rom bs k m) = csum8 bs k.val := by
  rw [memRead_buildFrame rom hc, dif_neg (by omega), if_pos rfl]

theorem memRead_buildFrame_above (rom : TplRom) {bs : List Byte} {k : Fin 20} (hc : bs.length = k.val) (m : Memory)
    {i : Fin 20} (hi : k.val < i.val) : memRead i (buildFrame rom bs k m) = tplByte rom i := by
  rw [memRead_buildFrame rom hc, dif_neg (by omega), if_neg (Fin.ne_of_gt hi)]

/-- R78, R80, R81: whatever `FRAME` held before, a build leaves a response frame. -/
theorem IsContent.frameSealed_buildFrame {bs : List Byte} {k : Fin 20} (h : IsContent bs k) (rom : TplRom) (m : Memory) :
    FrameSealed (buildFrame rom bs k m) := by
  obtain ⟨hlen, hlo, hhi, hop, hk⟩ := h
  have h0 := memRead_buildFrame_content rom hlen m (i := 0) (by simp; omega)
  have h1 := memRead_buildFrame_content rom hlen m (i := 1) (by simp; omega)
  refine ⟨h0 ▸ hop, k, hlo, hhi, h1 ▸ hk, ?_, fun i hi => memRead_buildFrame_above rom hlen m hi⟩
  rw [memRead_buildFrame_checksum rom hlen, csum8_frameBytes_buildFrame rom hlen]

/-! ### The invariant under each way a step can go -/

namespace State.Inv

variable {s t : State}

/-- The host's list of moves, its offer and the report of an earlier completion are no concern of the invariant. -/
theorem nextTurn_withOffer (h : s.Inv) (o : Option ReqWord) : ({ nextTurn s with offer := o } : State).Inv where
  frame_wf := h.frame_wf
  busy_latch := h.busy_latch
  rst_status := h.rst_status
  err_recorded := h.err_recorded
  errors_real := h.errors_real
  done_idle := by simp
  frame_sealed := h.frame_sealed

theorem nextTurn (h : s.Inv) : (nextTurn s).Inv := h.nextTurn_withOffer s.offer

/-- R111: reset asks nothing of the state before it but the record it keeps (R110). -/
theorem of_resetBlock (h : ErrCode.ok ∉ s.errors) : (resetBlock s).Inv where
  frame_wf := rfl
  busy_latch := rfl
  rst_status := fun _ => ⟨rfl, rfl⟩
  err_recorded := by simp
  errors_real := h
  done_idle := by simp
  frame_sealed := by simp

theorem accept (h : s.Inv) (hr : reqReady s = true) (w : ReqWord) : (accept w (reported s)).Inv where
  frame_wf := h.frame_wf
  busy_latch := rfl
  rst_status := by simp_all [reqReady]
  err_recorded := h.err_recorded
  errors_real := h.errors_real
  done_idle := by simp
  frame_sealed := h.frame_sealed

/-- What the end of an operation needs of the state its commit leaves. -/
theorem of_retire {e : ErrCode} (hrst : s.rst = false) (hwf : Memory.wf s.frame = true)
    (hrec : e ≠ .ok → s.errors.getLast? = some e) (hreal : ErrCode.ok ∉ s.errors)
    (hseal : s.status.frv = true → FrameSealed s.frame) : (s.retire e).Inv where
  frame_wf := hwf
  busy_latch := rfl
  rst_status := by simp [hrst]
  err_recorded := hrec
  errors_real := hreal
  done_idle := fun _ => ⟨rfl, hrst⟩
  frame_sealed := hseal

theorem completion (h : s.Inv) (hrst : s.rst = false) (hc : Completion s t) : t.Inv := by
  cases hc with
  | result v => exact of_retire hrst h.frame_wf (absurd rfl) h.errors_real h.frame_sealed
  | flag b => exact of_retire hrst h.frame_wf (absurd rfl) h.errors_real h.frame_sealed
  | frame hbs =>
    exact of_retire hrst (buildFrame_wf _ _ _ h.frame_wf) (absurd rfl) h.errors_real
      fun _ => hbs.frameSealed_buildFrame _ _
  | error he =>
    refine of_retire hrst h.frame_wf (by simp) ?_ h.frame_sealed
    simp [h.errors_real, he.symm]

end State.Inv

/-! ### Steps that stop or choose -/

theorem step_of_read {s : State} {o : Output} {ms : List HostMove} (hn : s.offer = none ∨ reqReady s = false)
    (hm : s.moves = .read o :: ms) : step s = hostRead o (nextTurn s) := by
  rw [step_turn hn, takeTurn_host hm (by simp), hostMove]

theorem step_of_offer {s : State} {w : ReqWord} {ms : List HostMove} (hn : s.offer = none ∨ reqReady s = false)
    (hm : s.moves = .offer w :: ms) : step s = hostOffer w (nextTurn s) := by
  rw [step_turn hn, takeTurn_host hm (by simp), hostMove]

theorem hostOffer_other {s : State} {w w' : ReqWord} (ho : s.offer = some w) (hw : w' ≠ w) :
    hostOffer w' s = .refused .hostChangesOffer := by
  simp [hostOffer, ho, hw.symm]

/-- A host that drives `req` while a word is on offer, and has a move, drives the same word (R33). -/
theorem step_offer_same {s t : State} {w w' : ReqWord} {ms : List HostMove} (ho : s.offer = some w)
    (hr : reqReady s = false) (hm : s.moves = .offer w' :: ms) (h : step s = .next t) : w' = w := by
  by_contra hw
  rw [step_of_offer (.inr hr) hm, hostOffer_other (s := nextTurn s) ho hw] at h
  cases h

/-! ### The write set of each operation -/

/-- R25, R96: the forms of a completion that the row `o` of the opcode map can take. -/
inductive WriteSet (o : Op) (s : State) : State → Prop where
  | result (ho : o ∈ [Op.bcdEnc, .bcdDec, .csum]) (v : Half) : WriteSet o s ((s.withResult v).retire .ok)
  | flag (ho : o = .bcdChk) (b : Bool) : WriteSet o s ((s.withFlag b).retire .ok)
  | frame (ho : o ∈ Stated.builds) (m : Memory) : WriteSet o s ((s.withFrame m).retire .ok)
  | error (ho : o = .csum) {e : ErrCode} (he : e ≠ .ok) : WriteSet o s ((s.recordError e).retire e)

theorem isBuild_iff (i : Instr) : isBuild i = true ↔ i.op ∈ Stated.builds := by
  cases i <;> simp [isBuild, Instr.op, Stated.builds]

/-- The rows of the builds are no row of the codec or the checksum. -/
theorem ne_of_mem_builds {o : Op} (h : o ∈ Stated.builds) : o ≠ .bcdEnc ∧ o ≠ .bcdChk ∧ o ≠ .bcdDec ∧ o ≠ .csum := by
  revert h
  cases o <;> decide

theorem csum_writeSet (n : Half) (s : State) : ∃ t, exec (.csum n) s = .next t ∧ WriteSet .csum s t := by
  by_cases hn : n.toNat ≤ 20
  · cases hf : s.status.frv with
    | true => exact ⟨_, execCsum_ok hn hf, .result (by simp) _⟩
    | false => exact ⟨_, execCsum_frameInvalid hn hf, .error rfl (by decide)⟩
  · exact ⟨_, execCsum_badCount s (by omega), .error rfl (by decide)⟩

theorem exec_writeSet (i : Instr) (s : State) : ∃ t, exec i s = .next t ∧ WriteSet i.op s t := by
  cases hb : isBuild i with
  | true => exact ⟨_, exec_build hb s, .frame ((isBuild_iff i).mp hb) _⟩
  | false =>
    cases i with
    | bcdEnc v => exact ⟨_, rfl, .result (by simp [Instr.op]) _⟩
    | bcdChk v => exact ⟨_, rfl, .flag rfl _⟩
    | bcdDec v => exact ⟨_, rfl, .result (by simp [Instr.op]) _⟩
    | csum n => exact csum_writeSet n s
    | _ => simp [isBuild] at hb

theorem WriteSet.of_exec {i : Instr} {s t : State} (h : exec i s = .next t) : WriteSet i.op s t := by
  obtain ⟨u, hu, hw⟩ := exec_writeSet i s
  obtain rfl : u = t := by simpa [hu] using h
  exact hw

namespace WriteSet

variable {o : Op} {s t : State}

/-- `BCD.ENC`, `BCD.DEC` and `CSUM` write `RESULT` alone (R25). -/
theorem result_alone (h : WriteSet o s t) (hok : t.status.err = .ok) (ho : o ∈ [Op.bcdEnc, .bcdDec, .csum]) :
    t.status.rv = true ∧ t.flag = s.flag ∧ t.status.fv = s.status.fv ∧
    t.status.frv = s.status.frv ∧ ∀ k, memRead k t.frame = memRead k s.frame := by
  cases h with
  | result _ v => simp
  | flag ho' b => simp [ho'] at ho
  | frame ho' m => simp [ne_of_mem_builds ho'] at ho
  | error _ he => exact absurd hok he

/-- `BCD.CHK` writes `FLAG` alone (R25). -/
theorem flag_alone (h : WriteSet o s t) (hok : t.status.err = .ok) (ho : o = .bcdChk) :
    t.status.fv = true ∧ t.result = s.result ∧ t.status.rv = s.status.rv ∧
    t.status.frv = s.status.frv ∧ ∀ k, memRead k t.frame = memRead k s.frame := by
  cases h with
  | result ho' v => simp [ho] at ho'
  | flag _ b => simp
  | frame ho' m => simp [ne_of_mem_builds ho'] at ho
  | error _ he => exact absurd hok he

/-- A build writes `FRAME` alone (R25). -/
theorem frame_alone (h : WriteSet o s t) (hok : t.status.err = .ok) (ho : o ∈ Stated.builds) :
    t.status.frv = true ∧ t.result = s.result ∧ t.status.rv = s.status.rv ∧
    t.flag = s.flag ∧ t.status.fv = s.status.fv := by
  cases h with
  | result ho' v => simp [ne_of_mem_builds ho] at ho'
  | flag ho' b => simp [ne_of_mem_builds ho] at ho'
  | frame _ m => simp
  | error _ he => exact absurd hok he

/-- On an error no output is written (R96). -/
theorem nothing_of_error (h : WriteSet o s t) (hne : t.status.err ≠ .ok) :
    t.result = s.result ∧ t.flag = s.flag ∧ t.status.rv = s.status.rv ∧ t.status.fv = s.status.fv ∧
    t.status.frv = s.status.frv ∧ ∀ k, memRead k t.frame = memRead k s.frame := by
  cases h with
  | error _ he => simp
  | _ => exact absurd rfl hne

end WriteSet

/-! ### What operations read -/

/-- A build reads nothing of the frame before it, and the bytes of `TPL` are a constant (R20, R80). -/
theorem memRead_buildFrame_irrel {bs : List Byte} {k : Fin 20} (hc : bs.length = k.val) (rom rom' : TplRom) (m m' : Memory)
    (i : Fin 20) : memRead i (buildFrame rom bs k m) = memRead i (buildFrame rom' bs k m') := by
  rw [memRead_buildFrame rom hc, memRead_buildFrame rom' hc]

/-- R77, R95, R97: `CSUM` reads `FRV` and the bytes of `FRAME` only. -/
theorem execCsum_congr (n : Half) {s s' : State} (hv : s.status.frv = s'.status.frv)
    (hf : ∀ k, memRead k s.frame = memRead k s'.frame) :
    ∃ t t' : State, exec (.csum n) s = .next t ∧ exec (.csum n) s' = .next t' ∧ t.status.err = t'.status.err ∧
      (t.status.err = .ok → t.result = t'.result) := by
  by_cases hn : n.toNat ≤ 20
  · cases h : s.status.frv with
    | true => exact ⟨_, _, execCsum_ok hn h, execCsum_ok hn (hv ▸ h), rfl, fun _ => by simp [frameBytes_congr hf]⟩
    | false => exact ⟨_, _, execCsum_frameInvalid hn h, execCsum_frameInvalid hn (hv ▸ h), rfl, by simp⟩
  · have hn' : 20 < n.toNat := by omega
    exact ⟨_, _, execCsum_badCount s hn', execCsum_badCount s' hn', rfl, by simp⟩

/-! ### The outputs -/

/-- The packed bytes of `FRAME` fit the output, so nothing is cut off. -/
theorem packFrame_toNat (m : Memory) : (packFrame m).toNat = packBytes (frameBytes m) := by
  have h := packBytes_lt (frameBytes m)
  rw [frameBytes_length] at h
  rw [packFrame, BitVec.toNat_ofNat, Nat.mod_eq_of_lt (h.trans_eq (by norm_num))]

/-- R32: where byte `i` stands in the `frame` output. -/
theorem packFrame_extract (m : Memory) (i : Fin 20) : (packFrame m).extractLsb' (152 - 8 * i.val) 8 = memRead i m := by
  have hi := i.isLt
  have hp : (2 : Nat) ^ (152 - 8 * i.val) = 256 ^ (20 - 1 - i.val) := by
    rw [show (256 : Nat) = 2 ^ 8 from rfl, ← Nat.pow_mul]
    congr 1
    omega
  have hb := packBytes_div (frameBytes m) i.val (by simp)
  simp only [frameBytes_length, frameBytes_getElem] at hb
  apply BitVec.eq_of_toNat_eq
  rw [BitVec.extractLsb'_toNat, packFrame_toNat, Nat.shiftRight_eq_div_pow, hp]
  exact hb

/-- R17: bits 3:1 of the status word. -/
theorem statusWord_extract_err (st : Status) : (statusWord st).extractLsb' 1 3 = st.err.code := by
  ext i hi
  simp only [statusWord]
  grind

/-- R17: the one-bit fields of the status word. -/
theorem statusWord_bits (st : Status) :
    (statusWord st).getLsbD 0 = st.busy ∧ (statusWord st).getLsbD 4 = st.rv ∧ (statusWord st).getLsbD 5 = st.fv ∧
    (statusWord st).getLsbD 6 = st.frv ∧ (statusWord st).getLsbD 7 = layoutBit st.layout := by
  simp only [statusWord, BitVec.getLsbD_append]
  simp

/-- R24: the bit of the layout is 1 exactly under `NIBBLE4`. -/
theorem layoutBit_eq (l : Layout) : layoutBit l = decide (l = .nibble4) := by cases l <;> rfl

/-! ### A placed request -/

/-- The table's word and the request word are one number, so the two decoders agree on it (log 7). -/
theorem decodeRequest_of_decodeTableWord {w : Nat} {i : Instr} (hw : w < 2 ^ 72) (h : decodeTableWord 72 w = some i) :
    decodeRequest (Request.ofWord (BitVec.ofNat 72 w)) = .known i := by
  rw [decodeTableWord, Nat.mod_eq_of_lt hw, if_pos hw] at h
  split at h
  next j hj => cases h; exact hj
  next => cases h

/-- What the block's turn finds after a placing: the request in flight, out of reset, nothing else changed (log 7). -/
theorem nextTurn_withFetchWord (s : State) {w : Nat} (hw : w < 2 ^ 72) :
    nextTurn (s.withFetchWord 72 w) =
      { s with latch := some (Request.ofWord (BitVec.ofNat 72 w)), status := { s.status with busy := true }
               rst := false, done := false } := by
  rw [State.withFetchWord, placeRequest, Nat.mod_eq_of_lt hw]
  rfl

end Sys2Proof.Machine

namespace Sys2Proof.Proofs

open Sys2Proof.Machine

/-- Settles O26: each way a step can go keeps the invariant. -/
theorem everyStepKeepsTheInvariant : Obligations.EveryStepKeepsTheInvariant := by
  intro s t hi h
  cases step_cases h with
  | accept ho hr => exact hi.accept hr _
  | held hr hb => exact .of_resetBlock hi.errors_real
  | complete hr hb hl hrun hc => exact hi.nextTurn.completion hr hc
  | idle hr hb hl => exact hi.nextTurn
  | offered hm o ho => exact hi.nextTurn_withOffer o
  | withdrawn hm => exact hi.nextTurn_withOffer none
  | rises hm => exact .of_resetBlock hi.errors_real
  | falls hm hr => exact .of_resetBlock hi.errors_real
  | low hm hr => exact hi.nextTurn
  | reads hm => exact hi.nextTurn

/-- Settles O12: the block is not ready, so no way a step can go accepts the request, and only the same word can be driven again. -/
theorem requestOfferedEarlyIsHeld : Obligations.RequestOfferedEarlyIsHeld := by
  intro s t w ho hbusy hw h
  have hready : reqReady s = false := by rcases hbusy with hb | hb <;> simp [reqReady, hb]
  cases step_cases h with
  | accept _ hr => simp [hready] at hr
  | held _ _ => exact ⟨ho, .inr rfl⟩
  | complete _ _ _ _ hc => exact ⟨hc.offer_eq.trans ho, .inr hc.latch_none⟩
  | idle _ _ _ => exact ⟨ho, .inl rfl⟩
  | offered hm o ho' => exact ⟨ho'.trans (by rw [step_offer_same ho hready hm h]), .inl rfl⟩
  | withdrawn hm => simp [hm] at hw
  | rises _ => exact ⟨ho, .inr rfl⟩
  | falls _ _ => exact ⟨ho, .inr rfl⟩
  | low _ _ => exact ⟨ho, .inl rfl⟩
  | reads _ => exact ⟨ho, .inl rfl⟩

/-- Settles O13: with a request in flight `BUSY` is 1 and `rst` is 0, so the block neither accepts nor leaves reset. -/
theorem latchHoldsUntilCompletion : Obligations.LatchHoldsUntilCompletion := by
  intro s t r hi hl h
  have hbusy : s.status.busy = true := by simp [hi.busy_latch, hl]
  cases step_cases h with
  | accept _ hr => simp [reqReady, hbusy] at hr
  | held hr _ => exact .inr (.inr ⟨rfl, hr⟩)
  | complete _ _ _ _ hc => exact .inr (.inl ⟨hc.latch_none, hc.done_true⟩)
  | idle _ _ hn => simp [hl] at hn
  | offered _ _ _ => exact .inl hl
  | withdrawn _ => exact .inl hl
  | rises _ => exact .inr (.inr ⟨rfl, rfl⟩)
  | falls _ hr => simp [(hi.rst_status hr).1] at hl
  | low _ _ => exact .inl hl
  | reads _ => exact .inl hl

/-- Settles O14: the block's turn runs the request, and every request completes. -/
theorem acceptedOperationCompletes : Obligations.AcceptedOperationCompletes := by
  intro s r hl hbusy hr hb
  obtain ⟨t, ht, hc⟩ := runRequest_completes r (nextTurn s)
  exact ⟨t, (step_runs hl hbusy hr hb).trans ht, hc.latch_none, hc.busy_false, hc.done_true⟩

/-- Settles O25, by the place of each byte in the packed number. -/
theorem frameOutputPacksByteZeroMostSignificant : Obligations.FrameOutputPacksByteZeroMostSignificant :=
  fun s i hv => ⟨packFrame s.frame, by simp [frameOut, hv], packFrame_extract s.frame i⟩

/-- Settles O30: no way a step can go writes the layout or the template, reset among them. -/
theorem noStepChangesLayoutOrTemplate : Obligations.NoStepChangesLayoutOrTemplate := by
  intro s t h
  cases step_cases h with
  | complete _ _ _ _ hc => exact ⟨hc.layout_eq, fun i => congrArg (tplByte · i) hc.tpl_eq⟩
  | _ => exact ⟨rfl, fun _ => rfl⟩

/-- Settles O31: the ways a step can go that reset the block need `rst` at 1 or moved by the host. -/
theorem onlyResetClearsValidBits : Obligations.OnlyResetClearsValidBits := by
  rintro s t ⟨hrst, hassert, hrelease⟩ h
  cases step_cases h with
  | held hr _ => simp [hrst] at hr
  | complete _ _ _ _ hc => exact ⟨hc.rv_mono, hc.fv_mono, hc.frv_mono⟩
  | rises hm => simp [hm] at hassert
  | falls hm _ => simp [hm] at hrelease
  | _ => exact ⟨id, id, id⟩

/-- Settles O33: the registers common to all completions, then the write set of the row. -/
theorem eachOperationWritesItsWriteSetAlone : Obligations.EachOperationWritesItsWriteSetAlone := by
  intro i s
  obtain ⟨t, ht, hc⟩ := exec_completes i s
  have hw := WriteSet.of_exec ht
  exact ⟨t, ht, hc.latch_none, hc.busy_false, hc.done_true, hc.layout_eq, hc.tpl_eq, hc.rst_eq, hc.offer_eq, hc.moves_eq,
    fun hok => ⟨hw.result_alone hok, hw.flag_alone hok, hw.frame_alone hok⟩, hw.nothing_of_error⟩

/-- Settles O36: a build leaves bytes of its content and the template, the codec's results come from operand and layout. -/
theorem operationsDoNotReadEarlierResults : Obligations.OperationsDoNotReadEarlierResults := by
  refine ⟨fun i s s' hi hl => ?_, fun n s s' hv hf => execCsum_congr n hv hf⟩
  cases hb : isBuild i with
  | true =>
    have hop := ne_of_mem_builds ((isBuild_iff i).mp hb)
    refine ⟨_, _, exec_build hb s, exec_build hb s', by simp [hop], by simp [hop], fun _ k => ?_⟩
    exact memRead_buildFrame_irrel (isContent_contentOf hb).length _ _ _ _ k
  | false =>
    have hop : i.op ∉ Stated.builds := by simp [← isBuild_iff, hb]
    cases i with
    | bcdEnc v => exact ⟨_, _, rfl, rfl, fun _ => rfl, by simp [Instr.op], fun h => absurd h hop⟩
    | bcdChk v => exact ⟨_, _, rfl, rfl, by simp [Instr.op], fun _ => by simp [hl], fun h => absurd h hop⟩
    | bcdDec v => exact ⟨_, _, rfl, rfl, fun _ => by simp [hl], by simp [Instr.op], fun h => absurd h hop⟩
    | csum n => exact absurd rfl hi
    | _ => simp [isBuild] at hb

/-- Settles O9: the placed word is a request in flight at the block's turn. -/
theorem stepRunsAPlacedWord : Obligations.StepRunsAPlacedWord := by
  intro s w i hw hd
  have hl : (s.withFetchWord 72 w).latch = some (Request.ofWord (BitVec.ofNat 72 w)) := by
    rw [← nextTurn_latch, nextTurn_withFetchWord s hw]
  rw [step_runs hl rfl rfl rfl, runRequest, decodeRequest_of_decodeTableWord hw hd, nextTurn_withFetchWord s hw]

/-- Settles O11: the block is ready, so the step accepts. -/
theorem readyBlockAcceptsTheOfferedRequest : Obligations.ReadyBlockAcceptsTheOfferedRequest := by
  intro s w ho hbusy hrst
  exact step_accept ho (by simp [reqReady, hbusy, hrst])

/-- Settles O21: the host's turn is the read, and each read tests its own valid bit. -/
theorem readOfAnOutputWithoutValueFaults : Obligations.ReadOfAnOutputWithoutValueFaults := by
  intro s ms hn
  refine ⟨fun hm hv => ?_, fun hm hv => ?_, fun hm hv => ?_⟩ <;> rw [step_of_read hn hm] <;> simp [hostRead, hv]

/-- Settles O23: the host's turn is the offer, and another word is on offer. -/
theorem replacingAnOfferIsNoMove : Obligations.ReplacingAnOfferIsNoMove := by
  intro s w w' ms ho hr hm hw
  rw [step_of_offer (.inr hr) hm]
  exact hostOffer_other ho hw

/-- Settles O24. The code of `ERR` is the only field wider than one bit. -/
theorem statusWordHoldsItsFields : Obligations.StatusWordHoldsItsFields := by
  intro s
  obtain ⟨hbusy, hrv, hfv, hfrv, hlayout⟩ := statusWord_bits s.status
  refine ⟨hbusy, ?_, hrv, hfv, hfrv, hlayout.trans (layoutBit_eq _)⟩
  rw [statusOut, statusWord_extract_err]
  cases s.status.err <;> rfl

end Sys2Proof.Proofs

/-! The family `20_memory.md`: the frame's canonical form, host reads, and when the outputs change. -/

namespace Sys2Proof.Machine

/-! ### The canonical form is one for each contents -/

namespace Memory

variable {m m' rest : Memory} {lo lo' a x : Nat} {v : Byte}

theorem rising_cons : rising lo ((a, v) :: rest) = true ↔
    lo ≤ a ∧ a < 20 ∧ v ≠ unlistedByte ∧ rising (a + 1) rest = true := by
  simp [rising, and_assoc]

theorem rising_from_head (h : rising lo ((a, v) :: rest) = true) : rising a ((a, v) :: rest) = true :=
  rising_cons.mpr ⟨le_rfl, (rising_cons.mp h).2⟩

@[simp] theorem read_head : read ((a, v) :: rest) a = v := if_pos rfl

theorem read_tail (h : x ≠ a) : read ((a, v) :: rest) x = read rest x := if_neg h

/-- Only indices within the bounds of a canonical memory are listed. -/
theorem bounds_of_read_ne (h : rising lo m = true) (hx : read m x ≠ unlistedByte) : lo ≤ x ∧ x < 20 := by
  induction m generalizing lo with
  | nil => exact absurd (read_nil x) hx
  | cons c rest ih =>
    obtain ⟨a, v⟩ := c
    obtain ⟨hlo, ha, -, hrest⟩ := rising_cons.mp h
    by_cases hxa : x = a
    · omega
    · have := ih hrest (by rwa [read_tail hxa] at hx)
      omega

/-- The entries after the first read as the whole does, but for the first entry's index. -/
theorem read_of_rising_cons (h : rising lo ((a, v) :: rest) = true) (x : Nat) :
    read rest x = if x = a then unlistedByte else read ((a, v) :: rest) x := by
  obtain ⟨-, -, -, hrest⟩ := rising_cons.mp h
  split
  next hxa =>
    by_contra hx
    have := (bounds_of_read_ne hrest hx).1
    omega
  next hxa => rw [read_tail hxa]

/-- No entry of a canonical memory repeats what an unlisted index reads as. -/
theorem read_head_ne (h : rising lo ((a, v) :: rest) = true) : read ((a, v) :: rest) a ≠ unlistedByte := by
  rw [read_head]
  exact (rising_cons.mp h).2.2.1

/-- Memories that rise and read alike start at one index, each start being the least index listed; then entry by entry. -/
theorem eq_of_read_eq (h : rising lo m = true) (h' : rising lo' m' = true) (hr : ∀ x, read m x = read m' x) : m = m' := by
  induction m generalizing lo lo' m' with
  | nil =>
    cases m' with
    | nil => rfl
    | cons c' rest' => exact absurd (hr c'.1).symm (read_head_ne h')
  | cons c rest ih =>
    cases m' with
    | nil => exact absurd (hr c.1) (read_head_ne h)
    | cons c' rest' =>
      obtain ⟨a, v⟩ := c
      obtain ⟨b, w⟩ := c'
      have hba : b ≤ a := (bounds_of_read_ne (rising_from_head h') (hr a ▸ read_head_ne h)).1
      have hab : a ≤ b := (bounds_of_read_ne (rising_from_head h) ((hr b).symm ▸ read_head_ne h')).1
      obtain rfl : a = b := le_antisymm hab hba
      obtain rfl : v = w := by simpa using hr a
      have hrest : rest = rest' := by
        refine ih (rising_cons.mp h).2.2.2 (rising_cons.mp h').2.2.2 fun x => ?_
        rw [read_of_rising_cons h, read_of_rising_cons h', hr]
      rw [hrest]

/-- A canonical memory reads as unlisted past the frame's end, so its twenty bytes say what it reads everywhere. -/
theorem read_eq_of_memRead_eq (h : wf m = true) (h' : wf m' = true) (hr : ∀ i, memRead i m = memRead i m') (x : Nat) :
    read m x = read m' x := by
  by_cases hx : x < 20
  · exact hr ⟨x, hx⟩
  · have past {m : Memory} (h : wf m = true) : read m x = unlistedByte :=
      not_not.mp fun hne => hx (bounds_of_read_ne h hne).2
    rw [past h, past h']

end Memory

/-! ### Host reads -/

theorem nextTurn_of_moves {s : State} {m : HostMove} {ms : List HostMove} (hm : s.moves = m :: ms) :
    nextTurn s = { s with moves := ms, done := false } := by
  simp [nextTurn, reported, hm]

theorem resultOut_isSome {s : State} : (resultOut s).isSome = true ↔ s.status.rv = true := by simp [resultOut]
theorem flagOut_isSome {s : State} : (flagOut s).isSome = true ↔ s.status.fv = true := by simp [flagOut]
theorem frameOut_isSome {s : State} : (frameOut s).isSome = true ↔ s.status.frv = true := by simp [frameOut]

/-- R26, R43: a read of an output that shows a value leaves the state. -/
theorem hostRead_of_value {o : Output} {s : State}
    (h : o = .status ∨ (o = .result ∧ (resultOut s).isSome) ∨ (o = .flag ∧ (flagOut s).isSome) ∨
      (o = .frame ∧ (frameOut s).isSome)) : hostRead o s = .next s := by
  rcases h with rfl | ⟨rfl, hv⟩ | ⟨rfl, hv⟩ | ⟨rfl, hv⟩
  · rfl
  · exact if_pos (resultOut_isSome.mp hv)
  · exact if_pos (flagOut_isSome.mp hv)
  · exact if_pos (frameOut_isSome.mp hv)

end Sys2Proof.Machine

namespace Sys2Proof.Proofs

open Sys2Proof.Machine

/-- Settles O29: of the ways a step can go, a completion reports `done`, and those that reset the block need `rst` at 1 or moved. -/
theorem outputsChangeOnlyAtCompletion : Obligations.OutputsChangeOnlyAtCompletion := by
  rintro s t ⟨hrst, hassert, hrelease⟩ h hdone
  cases step_cases h with
  | held hr _ => simp [hrst] at hr
  | complete _ _ _ _ hc => simp [hc.done_true] at hdone
  | rises hm => simp [hm] at hassert
  | falls hm _ => simp [hm] at hrelease
  | _ => exact ⟨rfl, rfl, rfl, rfl, rfl, rfl, rfl⟩

/-- Settles O37: the twenty bytes say what a canonical memory reads everywhere, and what it reads says its entries. -/
theorem framesThatReadAlikeAreEqual : Obligations.FramesThatReadAlikeAreEqual :=
  fun _ _ h h' hr => Memory.eq_of_read_eq h h' (Memory.read_eq_of_memRead_eq h h' hr)

/-- Settles O22: the host's turn is the read, which finds a value; `STATUS` is the same at the turn. -/
theorem hostReadHasNoSideEffect : Obligations.HostReadHasNoSideEffect := by
  intro s o ms hn hm hv
  have hread : hostRead o (nextTurn s) = .next (nextTurn s) := hostRead_of_status rfl (hostRead_of_value hv)
  rw [step_of_read hn hm, hread, nextTurn_of_moves hm]

end Sys2Proof.Proofs

/-! The family `30_encoding.md`: the decoder against the encoder, the ignored bits, the assembler. -/

namespace Sys2Proof

/-! ### The opcode map -/

theorem Op.mem_all (o : Op) : o ∈ Op.all := by cases o <;> decide

/-- The ten values of R58 are the codes of the ten rows. -/
theorem Op.mem_opValues_iff {b : Byte} : b ∈ Stated.opValues ↔ ∃ o : Op, o.code = b := by
  have hmap : Stated.opValues = Op.all.map Op.code := rfl
  simp [hmap, Op.mem_all]

theorem Op.ofCode_eq_none {b : Byte} (h : b ∉ Stated.opValues) : Op.ofCode b = none := by
  cases hb : Op.ofCode b with
  | none => rfl
  | some o => exact absurd (Op.mem_opValues_iff.mpr ⟨o, Op.ofCode_some hb⟩) h

/-! ### Decoding -/

theorem decodeRequest_of_code {r : Request} {o : Op} (h : r.op = o.code) : decodeRequest r = .known (o.instr r) :=
  decodeRequest_known (h ▸ Op.ofCode_code o)

/-- What a decoded request says: its row, and the operands of the row's format (R55, R60). -/
theorem of_decodeRequest_known {r : Request} {i : Instr} (h : decodeRequest r = .known i) :
    ∃ o : Op, r.op = o.code ∧ i = o.instr r := by
  cases ho : Op.ofCode r.op with
  | none => simp [decodeRequest_illegal ho] at h
  | some o =>
    rw [decodeRequest_known ho, Decoded.known.injEq] at h
    exact ⟨o, (Op.ofCode_some ho).symm, h.symm⟩

/-- R55: the operands a row takes from the request of an instruction of that row are the instruction's. -/
@[simp] theorem Instr.instr_request (i : Instr) : i.op.instr i.request = i := by
  cases i <;> simp [Instr.op, Op.instr, Instr.request]

@[simp] theorem decode_encode (i : Instr) : decode (encode i) = .known i := by
  rw [decode, encode, Request.ofWord_word, decodeRequest_of_code i.request_op, Instr.instr_request]

/-- No two instructions share a word. -/
theorem encode_injective : Function.Injective encode := by
  intro i j h
  simpa using congrArg decode h

/-! ### The bits a format uses -/

/-- R57: the request with the bits that `m` has at 0 cleared. -/
def Request.mask (r m : Request) : Request := ⟨r.op &&& m.op, r.a0 &&& m.a0, r.a1 &&& m.a1, r.a2 &&& m.a2, r.a3 &&& m.a3⟩

/-- R55: the bits of each field that a format uses. -/
def Format.used : Format → Request
  | .n => ⟨.allOnes 8, 0, 0, 0, 0⟩
  | .v => ⟨.allOnes 8, .allOnes 16, 0, 0, 0⟩
  | .pa => ⟨.allOnes 8, 0x00FF#16, 0x00FF#16, 0, 0⟩
  | .pahl => ⟨.allOnes 8, 0x00FF#16, 0x00FF#16, .allOnes 16, .allOnes 16⟩
  | .t4 => ⟨.allOnes 8, .allOnes 16, .allOnes 16, .allOnes 16, .allOnes 16⟩

theorem Request.word_mask (r m : Request) : (r.mask m).word = r.word &&& m.word := by
  simp only [Request.word, Request.mask, ← BitVec.and_append]

/-- The table's `x` bits are those the row's format does not use. -/
theorem Op.usedBits_eq (o : Op) : Stated.usedBits o = o.format.used.word := by cases o <;> decide

/-- Clearing ignored bits of a word is clearing them field by field. -/
theorem Request.ofWord_and_usedBits (o : Op) (w : ReqWord) :
    Request.ofWord (w &&& Stated.usedBits o) = (Request.ofWord w).mask o.format.used := by
  rw [← Request.ofWord_word (Request.mask _ _), Request.word_mask, Request.word_ofWord, Op.usedBits_eq]

/-- Every format uses all of `OP`. -/
theorem Request.mask_used_op (r : Request) (f : Format) : (r.mask f.used).op = r.op := by
  cases f <;> exact BitVec.and_allOnes

/-- R56: an 8-bit operand put back into its field is the field with its high byte cleared. -/
theorem setWidth_lowByte (v : Half) : (lowByte v).setWidth 16 = v &&& 0x00FF#16 := by
  apply BitVec.eq_of_toNat_eq
  have hv : v.toNat % 256 < 65536 := by omega
  rw [BitVec.toNat_setWidth, Machine.lowByte_toNat, Nat.mod_eq_of_lt hv, BitVec.toNat_and]
  exact (Nat.and_two_pow_sub_one_eq_mod v.toNat 8).symm

/-- R57: an instruction holds the used bits of its request and nothing else. -/
theorem Op.request_instr {r : Request} {o : Op} (h : r.op = o.code) : (o.instr r).request = r.mask o.format.used := by
  cases o <;>
    simp [Op.instr, Instr.request, Instr.op, Op.format, Format.used, Request.mask, setWidth_lowByte, h, -BitVec.reduceAllOnes]

theorem Op.encode_instr_ofWord {w : ReqWord} {o : Op} (h : (Request.ofWord w).op = o.code) :
    encode (o.instr (Request.ofWord w)) = w &&& Stated.usedBits o := by
  rw [encode, Op.request_instr h, Request.word_mask, Request.word_ofWord, Op.usedBits_eq]

/-- Words that agree on the bits a row uses agree on `OP`. -/
theorem Request.ofWord_op_congr {o : Op} {w w' : ReqWord} (h : w &&& Stated.usedBits o = w' &&& Stated.usedBits o) :
    (Request.ofWord w).op = (Request.ofWord w').op := by
  have := congrArg (fun v => (Request.ofWord v).op) h
  simpa only [Request.ofWord_and_usedBits, Request.mask_used_op] using this

/-- R57: ignored bits do not reach the decoded instruction. -/
theorem decode_congr_of_usedBits {o : Op} {w w' : ReqWord} (hop : (Request.ofWord w).op = o.code)
    (h : w &&& Stated.usedBits o = w' &&& Stated.usedBits o) : decode w = decode w' := by
  have hop' : (Request.ofWord w').op = o.code := Request.ofWord_op_congr h ▸ hop
  have hinstr : o.instr (Request.ofWord w) = o.instr (Request.ofWord w') := by
    apply encode_injective
    rw [Op.encode_instr_ofWord hop, Op.encode_instr_ofWord hop', h]
  rw [decode, decode, decodeRequest_of_code hop, decodeRequest_of_code hop', hinstr]

/-! ### Lines of assembly -/

/-- R64: a format without fields takes no numbers. -/
theorem argsFit_nil_iff {as : List Nat} : argsFit [] as = true ↔ as = [] := by cases as <;> simp [argsFit]

/-- R64: a number fits a field of `w` bits exactly where it is the value of some `w` bits. -/
theorem argsFit_cons_iff {w : Nat} {ws as : List Nat} :
    argsFit (w :: ws) as = true ↔ ∃ (v : BitVec w) (rest : List Nat), as = v.toNat :: rest ∧ argsFit ws rest = true := by
  cases as with
  | nil => simp [argsFit]
  | cons a as =>
    simp only [argsFit, Bool.and_eq_true, decide_eq_true_eq, List.cons.injEq]
    constructor
    · rintro ⟨ha, has⟩
      exact ⟨BitVec.ofNat w a, as, ⟨(Nat.mod_eq_of_lt ha).symm, rfl⟩, has⟩
    · rintro ⟨v, _, ⟨rfl, rfl⟩, has⟩
      exact ⟨v.isLt, has⟩

/-- The line an instruction is written as (R64). -/
def Instr.line (i : Instr) : AsmLine := ⟨i.op, Stated.operands i⟩

/-- The operands of an instruction fit their fields. -/
theorem Instr.line_wf (i : Instr) : i.line.wf = true := by
  cases i <;> simp [Instr.line, AsmLine.wf, Instr.op, Op.format, Format.widths, Stated.operands, argsFit_cons_iff, argsFit_nil_iff]

@[simp] theorem Instr.instr?_line (i : Instr) : i.line.instr? = some i := by
  rw [AsmLine.instr?, if_pos i.line_wf]
  cases i <;> simp [Instr.line, Instr.op, Stated.operands]

/-- R64: the lines that fit are those of the instructions. -/
theorem AsmLine.eq_line_of_wf {l : AsmLine} (h : l.wf = true) : ∃ i : Instr, l = i.line := by
  obtain ⟨o, args⟩ := l
  cases o <;>
    simp only [AsmLine.wf, Op.format, Format.widths, argsFit_cons_iff, argsFit_nil_iff] at h
  case frmSetup => obtain rfl := h; exact ⟨.frmSetup, rfl⟩
  case frmUnkA => obtain rfl := h; exact ⟨.frmUnkA, rfl⟩
  case frmUnkB => obtain rfl := h; exact ⟨.frmUnkB, rfl⟩
  case frmSetProf => obtain ⟨p, _, rfl, a, _, rfl, rfl⟩ := h; exact ⟨.frmSetProf p a, rfl⟩
  case frmRepProf => obtain ⟨p, _, rfl, a, _, rfl, t, _, rfl, k, _, rfl, rfl⟩ := h; exact ⟨.frmRepProf p a t k, rfl⟩
  case frmTemp => obtain ⟨t0, _, rfl, t1, _, rfl, t2, _, rfl, t3, _, rfl, rfl⟩ := h; exact ⟨.frmTemp t0 t1 t2 t3, rfl⟩
  case bcdEnc => obtain ⟨v, _, rfl, rfl⟩ := h; exact ⟨.bcdEnc v, rfl⟩
  case bcdChk => obtain ⟨v, _, rfl, rfl⟩ := h; exact ⟨.bcdChk v, rfl⟩
  case bcdDec => obtain ⟨v, _, rfl, rfl⟩ := h; exact ⟨.bcdDec v, rfl⟩
  case csum => obtain ⟨n, _, rfl, rfl⟩ := h; exact ⟨.csum n, rfl⟩

theorem AsmLine.wf_of_instr? {l : AsmLine} {i : Instr} (h : l.instr? = some i) : l.wf = true := by
  by_contra hwf
  simp [AsmLine.instr?, hwf] at h

/-- R64: a line stands for an instruction exactly where it is the instruction's line. -/
theorem AsmLine.instr?_eq_some_iff {l : AsmLine} {i : Instr} : l.instr? = some i ↔ l = i.line := by
  constructor
  · intro h
    obtain ⟨j, rfl⟩ := AsmLine.eq_line_of_wf (AsmLine.wf_of_instr? h)
    rw [Instr.instr?_line, Option.some.injEq] at h
    rw [h]
  · rintro rfl
    exact i.instr?_line

theorem AsmLine.eq_line_iff {l : AsmLine} {i : Instr} : l = i.line ↔ i.op = l.op ∧ Stated.operands i = l.args := by
  obtain ⟨o, args⟩ := l
  simp [Instr.line, eq_comm]

end Sys2Proof

namespace Sys2Proof.Machine

/-! ### Comments -/

/-- R65: the statement of a line ends at the first `;`. -/
theorem statementOf_comment {line : List Char} (h : ';' ∉ line) (comment : List Char) :
    statementOf (line ++ ';' :: comment) = statementOf line := by
  have hline : ∀ c ∈ line, (c != ';') = true := fun c hc => bne_iff_ne.mpr fun e => h (e ▸ hc)
  rw [statementOf, statementOf, List.takeWhile_append_of_pos hline, List.takeWhile_eq_self_iff.mpr hline,
    List.takeWhile_cons_of_neg (by simp), List.append_nil]

/-- What a line assembles to depends on its statement alone. -/
theorem assembleLine_congr {line line' : List Char} (h : statementOf line = statementOf line') :
    assembleLine line = assembleLine line' := by
  rw [assembleLine, assembleLine, h]

theorem assembleLine_length_le {line : List Char} {ws : List ReqWord} (h : assembleLine line = some ws) : ws.length ≤ 1 := by
  unfold assembleLine at h
  split at h
  next => cases h; simp
  next =>
    split at h
    next l _ =>
      obtain ⟨w, -, rfl⟩ := Option.map_eq_some_iff.mp h
      simp
    next => cases h

/-! ### Running a request -/

theorem runRequest_known {r : Request} {i : Instr} (h : decodeRequest r = .known i) (s : State) : runRequest r s = exec i s := by
  rw [runRequest, h]

/-- A request runs as what it decodes to (R68). -/
theorem runRequest_congr {r r' : Request} (h : decodeRequest r = decodeRequest r') (s : State) :
    runRequest r s = runRequest r' s := by
  rw [runRequest, runRequest, h]

end Sys2Proof.Machine

namespace Sys2Proof.Proofs

open Sys2Proof.Machine

/-- Settles O2: the fields of the word are the request's, and its row takes the operands back. -/
theorem decodeOfEncodeIsTheInstruction : Obligations.DecodeOfEncodeIsTheInstruction := decode_encode

/-- Settles O3: the instruction's request is the word's, each field masked by what its format uses. -/
theorem encodeOfDecodeClearsOnlyIgnoredBits : Obligations.EncodeOfDecodeClearsOnlyIgnoredBits := by
  intro w i h
  obtain ⟨o, hop, rfl⟩ := of_decodeRequest_known h
  rw [Instr.op_instr, Op.encode_instr_ofWord hop]

/-- Settles O4: the ten values are the codes of the rows, and a code selects its row. -/
theorem decodingLooksAtTheOpByteAlone : Obligations.DecodingLooksAtTheOpByteAlone := by
  refine fun w => ⟨fun h => ?_, fun h => decodeRequest_illegal (Op.ofCode_eq_none h)⟩
  obtain ⟨o, ho⟩ := Op.mem_opValues_iff.mp h
  exact ⟨o.instr (Request.ofWord w), decodeRequest_of_code ho.symm, by rw [Instr.op_instr, ho]⟩

/-- Settles O5: the two words decode alike, and a request runs as what it decodes to. -/
theorem ignoredBitsHaveNoEffect : Obligations.IgnoredBitsHaveNoEffect :=
  fun _ _ _ hop h s => runRequest_congr (decode_congr_of_usedBits hop h) s

/-- Settles O6: a line that fits is the line of an instruction, and its word is the instruction's. -/
theorem assemblerTakesExactlyTheLinesThatFit : Obligations.AssemblerTakesExactlyTheLinesThatFit := by
  intro l w
  simp only [AsmLine.assemble, Option.map_eq_some_iff, AsmLine.instr?_eq_some_iff, AsmLine.eq_line_iff]
  exact exists_congr fun i => ⟨fun ⟨hl, hw⟩ => ⟨hw.symm, hl⟩, fun ⟨hw, hl⟩ => ⟨hl, hw.symm⟩⟩

/-- Settles O7: a line is assembled by its statement, which a comment is no part of. -/
theorem commentsNeverAssemble : Obligations.CommentsNeverAssemble :=
  ⟨fun _ comment h => assembleLine_congr (statementOf_comment h comment),
    fun comment => assembleLine_congr (statementOf_comment List.not_mem_nil comment),
    fun _ _ h => assembleLine_length_le h⟩

/-- Settles O1: each word by evaluation. -/
theorem wordsOfTheSyntaxTableDecode : Obligations.WordsOfTheSyntaxTableDecode := by
  unfold Obligations.WordsOfTheSyntaxTableDecode
  decide

/-- Settles O8: the block's turn runs the request in flight, which runs as what it decodes to. -/
theorem stepRunsTheRequestInFlight : Obligations.StepRunsTheRequestInFlight :=
  fun _ _ _ hl hbusy hrst hb hd => (step_runs hl hbusy hrst hb).trans (runRequest_known hd _)

end Sys2Proof.Proofs

/-! The family `40_bcd_codec.md`: what the three operations commit, the laws of `BCD.ENC`, `BCD.CHK` and `BCD.DEC` under each layout, and
their round trip. -/

namespace Sys2Proof.Machine

variable {l : Layout} {v : Half}

/-! ### What the three operations commit -/

theorem exec_bcdEnc (v : Half) (s : State) : exec (.bcdEnc v) s = .next ((s.withResult (bcdEnc v)).retire .ok) := rfl

theorem exec_bcdChk (v : Half) (s : State) : exec (.bcdChk v) s = .next ((s.withFlag (isBcd s.status.layout v)).retire .ok) := rfl

theorem exec_bcdDec (v : Half) (s : State) :
    exec (.bcdDec v) s = .next ((s.withResult (bcdDec s.status.layout v)).retire .ok) := rfl

/-! ### The encoder -/

theorem bcdEnc_eq_ofNat_digits (v : Half) : bcdEnc v = BitVec.ofNat 16
    (4096 * Stated.digit v 1000 + 256 * Stated.digit v 100 + 16 * Stated.digit v 10 + Stated.digit v 1) := by
  rw [Stated.digit, Stated.digit, Stated.digit, Stated.digit, Nat.div_one, ← bcdEnc_toNat, BitVec.ofNat_toNat, BitVec.setWidth_eq]

/-- R73: lane `j` holds decimal digit `j`. -/
theorem bcdEnc_lane (v : Half) (j : Fin 4) : (bcdEnc v).toNat / 16 ^ j.val % 16 = v.toNat / 10 ^ j.val % 10 := by
  obtain ⟨units, tens, hundreds, thousands, -, -⟩ := bcdEnc_lanes v
  match j with
  | 0 => simpa using units
  | 1 => simpa using tens
  | 2 => simpa using hundreds
  | 3 => simpa using thousands

/-- The four low digits are those of the value modulo 10000, and make it up. -/
theorem digits_sum_mod (d : Nat) :
    d % 10 + 10 * (d / 10 % 10) + 100 * (d / 100 % 10) + 1000 * (d / 1000 % 10) = d % 10000 := by
  have h := digits_sum (Nat.mod_lt d (by decide : 0 < 10000))
  omega

/-- R73: the encoding determines the value modulo 10000, and is determined by it. -/
theorem bcdEnc_eq_iff {d d' : Half} : bcdEnc d = bcdEnc d' ↔ d.toNat % 10000 = d'.toNat % 10000 := by
  constructor
  · intro h
    obtain ⟨units, tens, hundreds, thousands, -, -⟩ := bcdEnc_lanes d
    obtain ⟨units', tens', hundreds', thousands', -, -⟩ := bcdEnc_lanes d'
    rw [← digits_sum_mod, ← digits_sum_mod, ← units, ← tens, ← hundreds, ← thousands, h, units', tens', hundreds', thousands']
  · intro h
    apply BitVec.eq_of_toNat_eq
    rw [bcdEnc_toNat, bcdEnc_toNat]
    omega

/-! ### The check and the decoder -/

/-- R69: the model's fields are the spec's. -/
theorem digitFields_eq_field (l : Layout) (v : Half) :
    digitFields l v = [Stated.field l v 0, Stated.field l v 1, Stated.field l v 2, Stated.field l v 3] := by
  have := v.isLt
  cases l with
  | byte8 =>
    simp only [digitFields_byte8, Stated.field, List.cons.injEq, and_true]
    omega
  | nibble4 => simp [digitFields_nibble4, Stated.field]

theorem isBcd_iff_passes : isBcd l v = true ↔ Stated.Passes l v := by
  simp [isBcd, digitFields_eq_field, Stated.Passes]

/-- R72: a value that passes decodes to the sum of its fields at their places. -/
theorem bcdDec_of_passes (h : Stated.Passes l v) : (bcdDec l v).toNat =
    Stated.field l v 0 + 10 * Stated.field l v 1 + 100 * Stated.field l v 2 + 1000 * Stated.field l v 3 := by
  obtain ⟨h0, h1, h2, h3⟩ := id h
  simp only [bcdDec, isBcd_iff_passes.mpr h, if_true, digitFields_eq_field, placeValue, BitVec.toNat_ofNat]
  omega

theorem bcdDec_le_9999 (h : isBcd l v = true) : (bcdDec l v).toNat ≤ 9999 := by
  have hp := isBcd_iff_passes.mp h
  obtain ⟨h0, h1, h2, h3⟩ := id hp
  rw [bcdDec_of_passes hp]
  omega

theorem bcdDec_byte8_le_99 (h : isBcd .byte8 v = true) : (bcdDec .byte8 v).toNat ≤ 99 := by
  have := (isBcd_byte8 v).mp h
  rw [bcdDec_byte8 h]
  omega

/-- R74: a value that passes decodes to at most 9999, so never to the sentinel. -/
theorem bcdDec_eq_sentinel_iff : bcdDec l v = 0xFFFF#16 ↔ isBcd l v = false := by
  refine ⟨fun hd => Bool.eq_false_iff.mpr fun h => ?_, bcdDec_fails⟩
  have hle := bcdDec_le_9999 h
  rw [hd] at hle
  exact absurd hle (by decide)

/-- R74: `BYTE8` is the stricter check. -/
theorem isBcd_nibble4_of_byte8 (h : isBcd .byte8 v = true) : isBcd .nibble4 v = true := by
  have := (isBcd_byte8 v).mp h
  rw [isBcd_nibble4]
  omega

/-! ### The round trip -/

theorem bcdDec_nibble4_bcdEnc (d : Half) : (bcdDec .nibble4 (bcdEnc d)).toNat = d.toNat % 10000 := by
  obtain ⟨units, tens, hundreds, thousands, -, -⟩ := bcdEnc_lanes d
  have hpass : isBcd .nibble4 (bcdEnc d) = true := by
    rw [isBcd_nibble4]
    omega
  rw [bcdDec_nibble4 hpass, units, tens, hundreds, thousands, digits_sum_mod]

/-- A byte of an encoding is at most 9 exactly where its high nibble, the tens or the thousands, is 0. -/
theorem isBcd_byte8_bcdEnc (d : Half) :
    isBcd .byte8 (bcdEnc d) = true ↔ Stated.digit d 10 = 0 ∧ Stated.digit d 1000 = 0 := by
  obtain ⟨-, -, -, -, low, high⟩ := bcdEnc_lanes d
  rw [isBcd_byte8, low, high, Stated.digit, Stated.digit]
  omega

theorem bcdDec_byte8_bcdEnc {d : Half} (h : Stated.digit d 10 = 0 ∧ Stated.digit d 1000 = 0) :
    (bcdDec .byte8 (bcdEnc d)).toNat = Stated.digit d 1 + 10 * Stated.digit d 100 := by
  obtain ⟨-, -, -, -, low, high⟩ := bcdEnc_lanes d
  rw [bcdDec_byte8 ((isBcd_byte8_bcdEnc d).mpr h), low, high]
  simp only [Stated.digit] at h ⊢
  omega

theorem bcdDec_byte8_bcdEnc_fails {d : Half} (h : ¬ (Stated.digit d 10 = 0 ∧ Stated.digit d 1000 = 0)) :
    bcdDec .byte8 (bcdEnc d) = 0xFFFF#16 :=
  bcdDec_fails (Bool.eq_false_iff.mpr (mt (isBcd_byte8_bcdEnc d).mp h))

/-- Under `BYTE8` the hundreds come back in the tens' place, so only single digits survive. -/
theorem bcdDec_byte8_bcdEnc_eq_iff {d : Half} (hd : d.toNat < 10000) : bcdDec .byte8 (bcdEnc d) = d ↔ d.toNat ≤ 9 := by
  have hsum := digits_sum hd
  by_cases h : Stated.digit d 10 = 0 ∧ Stated.digit d 1000 = 0
  · rw [← BitVec.toNat_inj, bcdDec_byte8_bcdEnc h]
    simp only [Stated.digit] at h ⊢
    omega
  · have hne : 0xFFFF#16 ≠ d := fun e => absurd (e ▸ hd) (by decide)
    have hgt : ¬ d.toNat ≤ 9 := by
      simp only [Stated.digit] at h
      omega
    rw [bcdDec_byte8_bcdEnc_fails h]
    exact iff_of_false hne hgt

end Sys2Proof.Machine

namespace Sys2Proof.Proofs

open Sys2Proof.Machine

/-- Settles O38: the row of 0x80, and the encoding as the number of its digits. -/
theorem bcdEncWritesTheFourLowDigits : Obligations.BcdEncWritesTheFourLowDigits := by
  intro a0 a1 a2 a3 s
  refine ⟨decodeRequest_of_code (o := .bcdEnc) rfl, ?_⟩
  rw [exec_bcdEnc, bcdEnc_eq_ofNat_digits]
  rfl

/-- Settles O39: the row of 0x81, and the check on the spec's fields. -/
theorem bcdChkWritesWhetherEveryFieldIsADigit : Obligations.BcdChkWritesWhetherEveryFieldIsADigit :=
  fun a0 _ _ _ s => ⟨decodeRequest_of_code (o := .bcdChk) rfl, isBcd s.status.layout a0, isBcd_iff_passes, exec_bcdChk a0 s⟩

/-- Settles O40: the row of 0x82; a value that passes gives the sum of its fields, another the sentinel. -/
theorem bcdDecWritesTheValueOrTheSentinel : Obligations.BcdDecWritesTheValueOrTheSentinel :=
  fun a0 _ _ _ s => ⟨decodeRequest_of_code (o := .bcdDec) rfl, bcdDec s.status.layout a0, bcdDec_of_passes,
    fun h => bcdDec_fails (Bool.eq_false_iff.mpr (mt isBcd_iff_passes.mp h)), exec_bcdDec a0 s⟩

/-- Settles O41: the lanes one by one; two encodings are equal exactly where the values are modulo 10000. -/
theorem bcdEncLanesAndInjectivity : Obligations.BcdEncLanesAndInjectivity := by
  refine fun d d' s => ⟨_, _, exec_bcdEnc d s, exec_bcdEnc d' s, bcdEnc_lane d, bcdEnc_eq_iff.mpr, fun hd hd' h => ?_⟩
  have hmod := bcdEnc_eq_iff.mp h
  rw [Nat.mod_eq_of_lt hd, Nat.mod_eq_of_lt hd'] at hmod
  exact BitVec.eq_of_toNat_eq hmod

/-- Settles O42: the laws of the check and the decoder, each under its layout. -/
theorem checkAndDecodeAgree : Obligations.CheckAndDecodeAgree := by
  intro v s s' hl hl'
  refine ⟨_, _, _, _, exec_bcdChk v s, exec_bcdDec v s, exec_bcdChk v s', exec_bcdDec v s', ?_⟩
  rw [hl, hl']
  exact ⟨bcdDec_eq_sentinel_iff, bcdDec_eq_sentinel_iff, bcdDec_byte8_le_99, bcdDec_le_9999, isBcd_nibble4_of_byte8⟩

/-- Settles O43: encoding leaves the layout, so decoding is the codec's round trip under the layout of `s`. -/
theorem encodeDecodeRoundTrip : Obligations.EncodeDecodeRoundTrip := by
  refine fun d s hd => ⟨_, _, exec_bcdEnc d s, exec_bcdDec _ _, fun hl => ?_, fun hl => ?_, fun hl => ?_, fun hl => ?_⟩ <;>
    simp only [State.retire_result, State.withResult_result, State.retire_status_layout, State.withResult_status_layout, hl]
  · exact BitVec.eq_of_toNat_eq ((bcdDec_nibble4_bcdEnc d).trans (Nat.mod_eq_of_lt hd))
  · exact bcdDec_byte8_bcdEnc_eq_iff hd
  · exact bcdDec_byte8_bcdEnc
  · exact bcdDec_byte8_bcdEnc_fails

/-- Refutes O44 (R75's words, log 16): under `BYTE8` the encoding of 100 is 0x0100, neither of whose bytes is above 9. -/
theorem not_roundTripAsR75WordsIt : ¬ Obligations.RoundTripAsR75WordsIt := by
  intro h
  obtain ⟨t, u, ht, -, -, -, hbyte8⟩ := h 100#16 State.reset (by decide)
  rw [exec_bcdEnc] at ht
  cases ht
  obtain ⟨hbyte, -⟩ := hbyte8 rfl (by decide)
  exact absurd hbyte (by decide)

end Sys2Proof.Proofs

/-! The family `41_checksum.md`: what `CSUM` returns, which bytes it covers, and the checksum law of every frame a host can read. -/

namespace Sys2Proof.Machine

/-! ### The checksum of a frame -/

/-- R77: the checksum zero-extended, as the number its sum is. -/
theorem csum8_frameBytes_setWidth (m : Memory) (n : Nat) : (csum8 (frameBytes m) n).setWidth 16 =
    BitVec.ofNat 16 ((∑ i : Fin 20, if i.val < n then (memRead i m).toNat else 0) % 256) := by
  rw [← csum8_frameBytes_toNat, BitVec.ofNat_toNat]

/-- R79: the checksum of the first `n` bytes reads those bytes alone. -/
theorem csum8_frameBytes_congr {m m' : Memory} {n : Nat} (h : ∀ j : Fin 20, j.val < n → memRead j m = memRead j m') :
    csum8 (frameBytes m) n = csum8 (frameBytes m') n := by
  apply BitVec.eq_of_toNat_eq
  rw [csum8_frameBytes_toNat, csum8_frameBytes_toNat]
  refine congrArg (· % 256) (Finset.sum_congr rfl fun j _ => ?_)
  split
  next hj => rw [h j hj]
  next => rfl

/-- R79: a write at or after index `n` is not covered. -/
theorem csum8_frameBytes_memWrite {n : Nat} {i : Fin 20} (h : n ≤ i.val) (v : Byte) (m : Memory) :
    csum8 (frameBytes (memWrite i v m)) n = csum8 (frameBytes m) n := by
  refine csum8_frameBytes_congr fun j hj => ?_
  have hne : j ≠ i := Fin.ne_of_lt (hj.trans_le h)
  rw [memRead_memWrite, if_neg hne]

/-- `CSUM` of an index of `FRAME`, which is a count that raises no error on a built frame (R77). -/
theorem execCsum_index (k : Fin 20) {s : State} (hf : s.status.frv = true) :
    exec (.csum (BitVec.ofNat 16 k.val)) s =
      .next ((s.withResult ((csum8 (frameBytes s.frame) k.val).setWidth 16)).retire .ok) := by
  have hk : (BitVec.ofNat 16 k.val).toNat = k.val := by
    rw [BitVec.toNat_ofNat, Nat.mod_eq_of_lt (by omega)]
  have hle : (BitVec.ofNat 16 k.val).toNat ≤ 20 := by omega
  rw [execCsum_ok hle hf, hk]

/-! ### The invariant along a run -/

namespace State.Inv

/-- The state right after reset is what reset makes of itself. -/
theorem resetWith (l : Layout) (ms : List HostMove) : ({ State.resetWith l with moves := ms } : State).Inv :=
  of_resetBlock (s := { State.resetWith l with moves := ms }) List.not_mem_nil

end State.Inv

end Sys2Proof.Machine

namespace Sys2Proof.Proofs

open Sys2Proof.Machine

/-- The invariant holds along every run from a state that meets it. -/
theorem inv_of_reaches {s t : State} (hs : s.Inv) (h : Reaches s t) : t.Inv := by
  induction h with
  | here => exact hs
  | more _ hstep ih => exact everyStepKeepsTheInvariant _ _ ih hstep

/-- Settles O28: a run from reset keeps the invariant, which seals every frame that can be read. -/
theorem everyRunShowsOnlySealedFrames : Obligations.EveryRunShowsOnlySealedFrames :=
  fun l ms _ h => (inv_of_reaches (.resetWith l ms) h).frame_sealed

/-- Settles O45: the row of 0x83, and the checksum as the sum over the indices. -/
theorem csumWritesTheSumOfTheFirstBytes : Obligations.CsumWritesTheSumOfTheFirstBytes := by
  refine fun a0 a1 a2 a3 s => ⟨decodeRequest_of_code (o := .csum) rfl, fun hn hf => ?_⟩
  rw [execCsum_ok hn hf, csum8_frameBytes_setWidth]
  rfl

/-- Settles O47: a build leaves a sealed frame, whose checksum index is the `k`. -/
theorem everyBuildSatisfiesTheChecksumLaw : Obligations.EveryBuildSatisfiesTheChecksumLaw := by
  intro i s hi
  have hb := (isBuild_iff i).mpr hi
  obtain ⟨k, -, -, hk, hsum, -⟩ := ((isContent_contentOf hb).frameSealed_buildFrame s.tpl s.frame).sealed
  refine ⟨_, _, k, exec_build hb s, hk, ?_, execCsum_index k rfl, rfl, ?_⟩
  · exact (congrArg BitVec.toNat hsum).trans (csum8_frameBytes_toNat _ _)
  · rw [State.retire_result, State.withResult_result, BitVec.toNat_setWidth_of_le (by decide)]
    exact congrArg BitVec.toNat hsum.symm

/-- Settles O49: both runs of `CSUM` succeed, and the byte written is not among those they read. -/
theorem checksumDoesNotCoverLaterBytes : Obligations.ChecksumDoesNotCoverLaterBytes := by
  refine fun s k i v hki hf => ⟨_, _, execCsum_index k hf, execCsum_index k hf, ?_, rfl, rfl⟩
  simp [csum8_frameBytes_memWrite hki]

end Sys2Proof.Proofs

/-! The family `42_frame_builder.md`: the twenty bytes each build leaves. -/

namespace Sys2Proof.Machine

/-! ### Any build -/

/-- R81: the content of a build begins with its `OP`. -/
theorem contentOf_opcode {i : Instr} (h : isBuild i = true) : (contentOf i).1.getD 0 0#8 = i.op.code := by
  cases i with
  | bcdEnc _ | bcdChk _ | bcdDec _ | csum _ => simp [isBuild] at h
  | _ => rfl

/-- R76: the checksum of a whole list of bytes, by their sum. -/
theorem csum8_of_sum {bs : List Byte} {k n : Nat} (hk : bs.length = k) (hn : (bs.map BitVec.toNat).sum = n) :
    csum8 bs k = BitVec.ofNat 8 (n % 256) := by
  rw [csum8, ← hk, List.take_length, hn]

/-- R25, R80: the whole next state of a build; its twenty bytes are the content, their checksum and the rest of the template. -/
theorem exec_build_bytes {i : Instr} {bs : List Byte} {k : Fin 20} {n : Nat} (s : State) (h : isBuild i = true)
    (hc : contentOf i = (bs, k)) (hn : ((contentOf i).1.map BitVec.toNat).sum = n) :
    ∃ m : Memory, exec i s = .next { s with
        latch := none, done := true, status := { s.status with busy := false, err := .ok, frv := true }, frame := m } ∧
      frameBytes m = bs ++ BitVec.ofNat 8 (n % 256) :: template.drop (k.val + 1) := by
  have hlen := (isContent_contentOf h).length
  have hexec := exec_build h s
  rw [hc] at hlen hexec hn
  exact ⟨_, hexec, csum8_of_sum hlen hn ▸ frameBytes_buildFrame s.tpl hlen s.frame⟩

/-! ### The content of the builds with operands -/

/-- R83: the sum of `FRM.SETPROF`'s content, its two constant bytes together. -/
theorem sum_content_frmSetProf (p a : Byte) :
    ((contentOf (.frmSetProf p a)).1.map BitVec.toNat).sum = 0x25 + p.toNat + a.toNat := by
  simp [contentOf]
  omega

/-- R84: the sum of `FRM.REPPROF`'s content, each threshold as its quotient and remainder by 256. -/
theorem sum_content_frmRepProf (p a : Byte) (h l : Half) :
    ((contentOf (.frmRepProf p a h l)).1.map BitVec.toNat).sum =
      0x24 + 0x06 + p.toNat + a.toNat + h.toNat / 256 + h.toNat % 256 + l.toNat / 256 + l.toNat % 256 := by
  simp [contentOf, highByte_toNat, lowByte_toNat]
  omega

/-- R70, R86: the upper byte of an encoded temperature holds its thousands and hundreds. -/
theorem highByte_bcdEnc (v : Half) : highByte (bcdEnc v) = Stated.bcdHigh v := by
  obtain ⟨-, -, -, -, -, high⟩ := bcdEnc_lanes v
  rw [Stated.bcdHigh, Stated.digit, Stated.digit, ← high, ← highByte_toNat, BitVec.ofNat_toNat, BitVec.setWidth_eq]

/-- R70, R86: the lower byte holds its tens and units. -/
theorem lowByte_bcdEnc (v : Half) : lowByte (bcdEnc v) = Stated.bcdLow v := by
  obtain ⟨-, -, -, -, low, -⟩ := bcdEnc_lanes v
  rw [Stated.bcdLow, Stated.digit, Stated.digit, Nat.div_one, ← low, ← lowByte_toNat, BitVec.ofNat_toNat, BitVec.setWidth_eq]

/-- R86: the content of `FRM.TEMP`, the temperatures in the spec's digits. -/
theorem contentOf_frmTemp (t0 t1 t2 t3 : Half) : contentOf (.frmTemp t0 t1 t2 t3) =
    ([0x30#8, 0x0F#8, 0x5A#8, 0x0C#8, 0x00#8, Stated.bcdHigh t0, Stated.bcdLow t0, Stated.bcdHigh t1, Stated.bcdLow t1,
      Stated.bcdHigh t2, Stated.bcdLow t2, Stated.bcdHigh t3, Stated.bcdLow t3, 0xFF#8, 0xFF#8, 0xFF#8, 0xFF#8], 17) := by
  simp only [contentOf, highByte_bcdEnc, lowByte_bcdEnc]

/-- R86: the sum of `FRM.TEMP`'s content, in the order of its bytes. -/
theorem sum_content_frmTemp (t0 t1 t2 t3 : Half) :
    ((contentOf (.frmTemp t0 t1 t2 t3)).1.map BitVec.toNat).sum =
      0x30 + 0x0F + 0x5A + 0x0C + (Stated.bcdHigh t0).toNat + (Stated.bcdLow t0).toNat
        + (Stated.bcdHigh t1).toNat + (Stated.bcdLow t1).toNat + (Stated.bcdHigh t2).toNat + (Stated.bcdLow t2).toNat
        + (Stated.bcdHigh t3).toNat + (Stated.bcdLow t3).toNat + 4 * 0xFF := by
  simp [contentOf_frmTemp]
  omega

end Sys2Proof.Machine

namespace Sys2Proof.Proofs

open Sys2Proof.Machine

/-- Settles O48: the content holds the opcode and the length byte, which places the checksum and so the template above it. -/
theorem opcodeAndLengthByteOfEveryBuild : Obligations.OpcodeAndLengthByteOfEveryBuild := by
  intro i s hi
  have hb := (isBuild_iff i).mpr hi
  obtain ⟨hlen, hlo, -, -, hk⟩ := isContent_contentOf hb
  have h0 := memRead_buildFrame_content s.tpl hlen s.frame (i := 0) (by simp; omega)
  have h1 := memRead_buildFrame_content s.tpl hlen s.frame (i := 1) (by simp; omega)
  refine ⟨_, exec_build hb s, h0.trans (contentOf_opcode hb), h1.trans ?_, fun j hj => ?_⟩
  · cases i with
    | bcdEnc _ | bcdChk _ | bcdDec _ | csum _ => simp [isBuild] at hb
    | _ => rfl
  · have hj' : 2 + ((contentOf i).1.getD 1 0#8).toNat < j.val := h1 ▸ hj
    exact memRead_buildFrame_above s.tpl hlen s.frame (hk ▸ hj')

/-- Settles O51: the row of 0x23, and the bytes of the build. -/
theorem setProfBuildsItsFrame : Obligations.SetProfBuildsItsFrame :=
  fun _ _ _ _ s => ⟨decodeRequest_of_code (o := .frmSetProf) rfl,
    fun p a => exec_build_bytes s rfl rfl (sum_content_frmSetProf p a)⟩

/-- Settles O52: the row of 0x24, and the bytes of the build. -/
theorem repProfBuildsItsFrame : Obligations.RepProfBuildsItsFrame :=
  fun _ _ _ _ s => ⟨decodeRequest_of_code (o := .frmRepProf) rfl,
    fun p a h l => exec_build_bytes s rfl rfl (sum_content_frmRepProf p a h l)⟩

/-- Settles O54: the row of 0x30, and the bytes of the build with the encoded temperatures in the spec's digits. -/
theorem tempBuildsItsFrame : Obligations.TempBuildsItsFrame :=
  fun t0 t1 t2 t3 s => ⟨decodeRequest_of_code (o := .frmTemp) rfl,
    exec_build_bytes s rfl (contentOf_frmTemp t0 t1 t2 t3) (sum_content_frmTemp t0 t1 t2 t3)⟩

/-- Settles O50: the row of 0x01, and the constant bytes of the build. -/
theorem setupBuildsItsFrame : Obligations.SetupBuildsItsFrame :=
  fun _ _ _ _ s => ⟨decodeRequest_of_code (o := .frmSetup) rfl, exec_build_bytes (i := .frmSetup) s rfl rfl rfl⟩

/-- Settles O53: the row of 0x26, and the constant bytes of the build. -/
theorem unkABuildsItsFrame : Obligations.UnkABuildsItsFrame :=
  fun _ _ _ _ s => ⟨decodeRequest_of_code (o := .frmUnkA) rfl, exec_build_bytes (i := .frmUnkA) s rfl rfl rfl⟩

/-- Settles O55: the row of 0x41, and the constant bytes of the build. -/
theorem unkBBuildsItsFrame : Obligations.UnkBBuildsItsFrame :=
  fun _ _ _ _ s => ⟨decodeRequest_of_code (o := .frmUnkB) rfl, exec_build_bytes (i := .frmUnkB) s rfl rfl rfl⟩

end Sys2Proof.Proofs

/-! The family `60_exceptions.md`: which completions are errors, how the record of errors grows, and the idle block. -/

namespace Sys2Proof.Machine

/-! ### Completions with and without an error -/

/-- R98, R110: a completion succeeds and leaves the record, or fails and appends the code it writes. -/
theorem Completion.err_and_errors {s t : State} (h : Completion s t) :
    (t.status.err = .ok ∧ t.errors = s.errors) ∨ (t.status.err ≠ .ok ∧ t.errors = s.errors ++ [t.status.err]) := by
  cases h with
  | error he => exact .inr ⟨he, rfl⟩
  | _ => exact .inl ⟨rfl, rfl⟩

/-- R92: of the ways the rows can complete, the error is `CSUM`'s alone. -/
theorem WriteSet.success_of_ne_csum {o : Op} {s t : State} (h : WriteSet o s t) (ho : o ≠ .csum) :
    t.status.err = .ok ∧ t.errors = s.errors := by
  cases h with
  | error hcsum _ => exact absurd hcsum ho
  | _ => exact ⟨rfl, rfl⟩

/-- R61, R93: a request whose `OP` is not in the map runs as the error. -/
theorem runRequest_illegal {r : Request} (h : r.op ∉ Stated.opValues) (s : State) :
    runRequest r s = raise .illegalOp s := by
  rw [runRequest, decodeRequest_illegal (Op.ofCode_eq_none h)]

/-! ### The idle block -/

/-- R108: a turn of the block with nothing in flight or on offer is the passing of the turn. -/
theorem step_idle {s : State} (hl : s.latch = none) (ho : s.offer = none) (hr : s.rst = false) (hb : blockToAct s = true) :
    step s = .next (nextTurn s) := by
  rw [step_turn (.inl ho), takeTurn_block hb]
  simp [blockTurn, hl, hr]

namespace State.RunEnded

variable {s : State}

/-- The report of an earlier completion is no concern of the end of a run. -/
theorem reported (h : s.RunEnded) : (reported s).RunEnded := ⟨h.no_move, h.no_offer, h.no_request⟩

/-- With no move left a step takes none off the list (R124). -/
theorem step_eq (h : s.RunEnded) (hr : s.rst = false) : step s = .next (Machine.reported s) := by
  have hb : blockToAct s = true := by simp [blockToAct, h.no_move]
  rw [step_idle h.no_request h.no_offer hr hb]
  simp [nextTurn, Machine.reported, h.no_move]

/-- The first step of an ended run reports `done`; every later one finds it reported. -/
theorem run_succ (h : s.RunEnded) (hr : s.rst = false) (k : Nat) :
    Host.Core.run Sys2Proof.core (k + 1) s = .next (Machine.reported s) := by
  induction k generalizing s with
  | zero => exact run_succ_of_next (h.step_eq hr) 0
  | succ k ih => exact (run_succ_of_next (h.step_eq hr) (k + 1)).trans (ih h.reported hr)

end State.RunEnded

end Sys2Proof.Machine

namespace Sys2Proof.Proofs

open Sys2Proof.Machine

/-- Settles O17, by induction on the number of steps. -/
theorem endedRunHoldsItsStateIndefinitely : Obligations.EndedRunHoldsItsStateIndefinitely :=
  fun _ k h hr => h.run_succ hr k

/-- Settles O32: of the ways a step can go only a completion reports `done`, and only it touches the record. -/
theorem errorRecordGrowsByExactlyTheErrors : Obligations.ErrorRecordGrowsByExactlyTheErrors := by
  intro s t h
  cases step_cases h with
  | complete _ _ _ _ hc => exact .inr (hc.err_and_errors.imp (⟨hc.done_true, ·⟩) (⟨hc.done_true, ·⟩))
  | _ => exact .inl ⟨rfl, rfl⟩

/-- Settles O34: the row completes by its write set, which is an error for `CSUM` alone. -/
theorem onlyCsumCanFail : Obligations.OnlyCsumCanFail := by
  intro i s hi
  obtain ⟨t, ht, hw⟩ := exec_writeSet i s
  exact ⟨t, ht, hw.success_of_ne_csum hi⟩

/-- Settles O35: a completion runs the decoded operation, which cannot fail; no other way a step can go touches the record. -/
theorem noErrorWithoutCsumOrIllegalOp : Obligations.NoErrorWithoutCsumOrIllegalOp := by
  intro s t hs hop h
  cases step_cases h with
  | complete _ _ hl hrun _ =>
    obtain ⟨i, hd, hi⟩ := hop _ hl
    rw [runRequest_known hd] at hrun
    exact ((WriteSet.of_exec hrun).success_of_ne_csum hi).2.trans hs
  | _ => exact hs

/-- Settles O10: the block's turn runs the request in flight, which is the error. -/
theorem illegalOpCommitsErrAlone : Obligations.IllegalOpCommitsErrAlone :=
  fun _ _ hl hbusy hr hb hop => (step_runs hl hbusy hr hb).trans (runRequest_illegal hop _)

/-- Settles O16: no request is accepted and none runs, so only the turn passes. -/
theorem idleBlockHoldsItsState : Obligations.IdleBlockHoldsItsState :=
  fun _ => step_idle

/-- Settles O46: the two errors of `CSUM`, the count's first. -/
theorem csumErrorsComeInOrder : Obligations.CsumErrorsComeInOrder :=
  fun _ s => ⟨execCsum_badCount s, execCsum_frameInvalid⟩

end Sys2Proof.Proofs

/-! The family `70_reset_and_hazards.md`: what reset shows and abandons, and host reads while an operation is in flight. -/

namespace Sys2Proof.Machine

/-! ### What reset shows -/

/-- R111: whatever the block was doing, reset makes it show the reset values of its layout. -/
theorem showsReset_resetBlock (s : State) : Stated.ShowsReset s.status.layout (resetBlock s) := by
  have hstatus : statusWord (Status.atReset s.status.layout) = if s.status.layout = .nibble4 then 0x80#8 else 0x00#8 := by
    cases s.status.layout <;> decide
  exact ⟨rfl, hstatus, rfl, rfl, rfl, rfl, rfl⟩

/-- R28: `req_ready` is 0 while `rst` is 1. -/
theorem reqReady_of_rst {s : State} (h : s.rst = true) : reqReady s = false := by simp [reqReady, h]

/-! ### The steps that reset the block -/

theorem step_of_assertRst {s : State} {ms : List HostMove} (hn : s.offer = none ∨ reqReady s = false)
    (hm : s.moves = .assertRst :: ms) : step s = .next (resetBlock { nextTurn s with rst := true }) := by
  rw [step_turn hn, takeTurn_host hm (by simp), hostMove]

theorem step_of_releaseRst {s : State} {ms : List HostMove} (hr : s.rst = true) (hm : s.moves = .releaseRst :: ms) :
    step s = .next (resetBlock { nextTurn s with rst := false }) := by
  rw [step_turn (.inr (reqReady_of_rst hr)), takeTurn_host hm (by simp), hostMove, nextTurn_rst, if_pos hr]

theorem step_under_rst {s : State} (hr : s.rst = true) (hb : blockToAct s = true) :
    step s = .next (resetBlock (nextTurn s)) := by
  rw [step_turn (.inr (reqReady_of_rst hr)), takeTurn_block hb, blockTurn, nextTurn_rst, if_pos hr]

/-! ### Host reads before completion -/

/-- The turn writes no bit of `STATUS`, so a read that finds a value before it finds one after it (R26). -/
theorem hostRead_nextTurn {o : Output} {s : State} (h : hostRead o s = .next s) :
    hostRead o (nextTurn s) = .next (nextTurn s) :=
  hostRead_of_status (s := s) rfl h

/-- R43: a read that finds a value passes the host's turn and does nothing else. -/
theorem step_of_read_value {s : State} {o : Output} {ms : List HostMove} (hn : s.offer = none ∨ reqReady s = false)
    (hm : s.moves = .read o :: ms) (ho : hostRead o s = .next s) : step s = .next (nextTurn s) :=
  (step_of_read hn hm).trans (hostRead_nextTurn ho)

/-- R43, R123: reads that find a value pass the host's turns one by one, and then the request in flight runs. -/
theorem run_reads_then_completes {s t : State} {r : Request} (hl : s.latch = some r) (hbusy : s.status.busy = true)
    (hr : s.rst = false) (hreads : ∀ m ∈ s.moves, ∃ o : Output, m = .read o ∧ hostRead o s = .next s)
    (ht : runRequest r { s with moves := [], done := false } = .next t) :
    Host.Core.run Sys2Proof.core (s.moves.length + 1) s = .next t := by
  induction hm : s.moves generalizing s with
  | nil =>
    have hturn : nextTurn s = { s with moves := [], done := false } := by simp [nextTurn, reported, hm]
    have hstep : step s = .next t := by
      rw [step_runs hl hbusy hr (by simp [blockToAct, hm]), hturn, ht]
    exact run_succ_of_next hstep 0
  | cons m ms ih =>
    obtain ⟨o, rfl, ho⟩ := hreads m (by simp [hm])
    have hstep : step s = .next (nextTurn s) := step_of_read_value (.inr (by simp [reqReady, hbusy])) hm ho
    have hrest : ∀ m ∈ (nextTurn s).moves, ∃ o, m = .read o ∧ hostRead o (nextTurn s) = .next (nextTurn s) := fun m hmem =>
      have ⟨o, he, ho⟩ := hreads m (List.mem_of_mem_tail hmem)
      ⟨o, he, hostRead_nextTurn ho⟩
    exact (run_succ_of_next hstep _).trans (ih hl hbusy hr hrest ht (by simp [hm]))

end Sys2Proof.Machine

namespace Sys2Proof.Proofs

open Sys2Proof.Machine

/-- Settles O15: the request completes at once, and the reads before the block's turn leave it to complete so. -/
theorem readsBeforeCompletionDoNotChangeAnOperation : Obligations.ReadsBeforeCompletionDoNotChangeAnOperation := by
  intro s r hl hbusy hr hreads
  obtain ⟨t, ht, -⟩ := runRequest_completes r { s with moves := [], done := false }
  exact ⟨t, ht, run_reads_then_completes hl hbusy hr hreads ht⟩

/-- Settles O19: in each of the three the step is a reset of the block, with `rst` as the turn leaves it. -/
theorem resetIsHeldWhileRstIsHigh : Obligations.ResetIsHeldWhileRstIsHigh := by
  refine fun s ms => ⟨fun hm hn => ?_, fun hr hb => ?_, fun hr hm => ?_⟩
  · exact ⟨_, step_of_assertRst hn hm, showsReset_resetBlock _, rfl, rfl, reqReady_of_rst rfl, rfl⟩
  · exact ⟨_, step_under_rst hr hb, showsReset_resetBlock _, rfl, hr, reqReady_of_rst hr, rfl⟩
  · exact ⟨_, step_of_releaseRst hr hm, showsReset_resetBlock _, rfl, rfl, rfl, rfl⟩

/-- Settles O18: the state right after reset is what reset makes of itself. -/
theorem stateRightAfterReset : Obligations.StateRightAfterReset :=
  ⟨rfl, fun l => ⟨showsReset_resetBlock (State.resetWith l), rfl, rfl⟩⟩

/-- Settles O20: a busy block accepts nothing, so the step is the rise of `rst`, which empties the latch. -/
theorem resetAbandonsTheOperationInFlight : Obligations.ResetAbandonsTheOperationInFlight := by
  intro s r ms _ hbusy hm
  have hstep := step_of_assertRst (.inr (by simp [reqReady, hbusy])) hm
  exact ⟨_, hstep, showsReset_resetBlock _, rfl, by simp [hm], rfl⟩

/-- Settles O27: reset asks nothing of the state before it but a record of real errors, and this one is empty. -/
theorem resetStateMeetsTheInvariant : Obligations.ResetStateMeetsTheInvariant :=
  State.Inv.resetWith

end Sys2Proof.Proofs
